-- ==== Sys2Proof/Word.lean ====
section
/-! DEFINITION. The bit-vector types of the SSS core: bytes, 16-bit fields and 32-bit words (00_scope R6, R7). -/

namespace Sys2Proof

/-- An unsigned 8-bit value 0..255, which is also a field element (00_scope R7). -/
abbrev Byte := BitVec 8

/-- A 16-bit length, count or index field (10_state R34 to R40). -/
abbrev Half := BitVec 16

/-- One 32-bit word of the host window or of the command register (20_memory R60, 30_encoding R90). -/
abbrev Word := BitVec 32

end Sys2Proof
end

