-- ==== Sys2Proof/Config.lean ====
section
/-! DEFINITION. The configuration parameters of the core (00_scope R5) and the free values of the model. -/

namespace Sys2Proof

/-- The parameters of 00_scope R5, which the model takes as arguments: State holds one Config, and no step changes it
(log 3). -/
structure Config where
  /-- largest secret length in bytes -/
  nmax : Nat
  /-- number of share slots -/
  kmax : Nat
  /-- capacity of each polynomial buffer -/
  pcap : Nat
  /-- platform address of offset 0 of the host window -/
  base : Nat
  deriving DecidableEq, Repr

/-- The legal ranges of 00_scope R5. -/
abbrev Config.legal (c : Config) : Prop :=
  (1 ≤ c.nmax ∧ c.nmax ≤ 4095) ∧ (1 ≤ c.kmax ∧ c.kmax ≤ 256) ∧ (c.kmax ≤ c.pcap ∧ c.pcap ≤ 4096)

/-- The reference configuration of 00_scope R5. DESIGN CHOICE (log 3): the spec gives BASE no reference value; the model
takes 0. -/
def Config.reference : Config := { nmax := 256, kmax := 256, pcap := 512, base := 0 }

/-- FREE VALUE (log 4): the byte that the buffer word at a window offset holds after the reset numbered by the first
argument, until something writes it (70_reset R241, I1). Nothing is known of it. -/
opaque Config.resetDraw : Nat → Nat → Byte

/-- FREE VALUE (log 5): the byte that a COEF entry no SPLIT has written holds in the COEF generation numbered by the first
argument (10_state R46, 42_splitter R161, I2). Nothing is known of it. -/
opaque Config.coefDraw : Nat → Nat → Byte

/-- FREE VALUE (log 6): the word that the numbered unspecified read during BUSY returns (70_reset R248, I3). Nothing is
known of it. -/
opaque Config.busyReadDraw : Nat → Word

end Sys2Proof
end

