-- ==== Sys2Proof/Syntax.lean ====
section
/-! DEFINITION. The 13 commands (30_encoding R93, opcode_table.json), one constructor per row. Operands are bit vectors of
their field's width (30_encoding R92), so every term has an encoding. -/

namespace Sys2Proof

/-- A command of the core (30_encoding R93). -/
inductive Instr where
  /-- 44_control R200 -/
  | nop
  /-- 40_field R128 -/
  | gfAdd (a b : Byte)
  /-- 40_field R129 -/
  | gfSub (a b : Byte)
  /-- 40_field R130 -/
  | gfMul (a b : Byte)
  /-- 40_field R131 -/
  | gfDiv (a b : Byte)
  /-- 41_polynomial R144 -/
  | polyAdd
  /-- 41_polynomial R145 -/
  | polyMul
  /-- 41_polynomial R146 -/
  | polyEval (x : Byte)
  /-- 42_splitter R161 -/
  | split (t : Byte)
  /-- 42_splitter R163 -/
  | getShare (id : Byte)
  /-- 42_splitter R165 -/
  | isValid (slot : Byte)
  /-- 43_recoverer R183 -/
  | lagrange (p : Half)
  /-- 43_recoverer R184 -/
  | recover (t : Byte)
  deriving DecidableEq, Repr

/-- The operands of one line of assembler text: numeric literals (30_encoding R97). -/
inductive AsmOperands where
  | none
  | one (a : Nat)
  | two (a b : Nat)
  deriving DecidableEq, Repr

/-- The mnemonics of 30_encoding R93. -/
inductive Mnemonic where
  | nop | gfAdd | gfSub | gfMul | gfDiv | polyAdd | polyMul | polyEval | split | getShare | isValid | lagrange | recover
  deriving DecidableEq, Repr

/-- One line of assembler text, `MNEMONIC operands` (30_encoding R97). -/
structure AsmLine where
  mnemonic : Mnemonic
  operands : AsmOperands
  deriving DecidableEq, Repr

/-- The four command formats of 30_encoding R91. -/
inductive Format where
  | n | b1 | b2 | x
  deriving DecidableEq, Repr

/-- The format column of 30_encoding R93. -/
def Mnemonic.format : Mnemonic → Format
  | .nop | .polyAdd | .polyMul => .n
  | .gfAdd | .gfSub | .gfMul | .gfDiv => .b2
  | .polyEval | .split | .getShare | .isValid | .recover => .b1
  | .lagrange => .x

/-- The assembler line that stands for a command (30_encoding R97). -/
def Instr.toAsm : Instr → AsmLine
  | .nop => ⟨.nop, .none⟩
  | .gfAdd a b => ⟨.gfAdd, .two a.toNat b.toNat⟩
  | .gfSub a b => ⟨.gfSub, .two a.toNat b.toNat⟩
  | .gfMul a b => ⟨.gfMul, .two a.toNat b.toNat⟩
  | .gfDiv a b => ⟨.gfDiv, .two a.toNat b.toNat⟩
  | .polyAdd => ⟨.polyAdd, .none⟩
  | .polyMul => ⟨.polyMul, .none⟩
  | .polyEval x => ⟨.polyEval, .one x.toNat⟩
  | .split t => ⟨.split, .one t.toNat⟩
  | .getShare id => ⟨.getShare, .one id.toNat⟩
  | .isValid slot => ⟨.isValid, .one slot.toNat⟩
  | .lagrange p => ⟨.lagrange, .one p.toNat⟩
  | .recover t => ⟨.recover, .one t.toNat⟩

end Sys2Proof
end

