-- ==== Sys2Proof/WellFormed.lean ====
section
/-! DEFINITION. What an assembler accepts (30_encoding R97): the operand count of the command's format, a B1 or B2 operand in
0..255, an X operand in 0..65535. A term of Instr has operands of the right width by its type, so it is well-formed always
(Laws/PerInstr). -/

namespace Sys2Proof

/-- The check of 30_encoding R97: "An assembler must refuse a B1 or B2 operand outside 0..255 and an X operand outside
0..65535." -/
def AsmLine.wellFormed (l : AsmLine) : Bool :=
  match l.mnemonic.format, l.operands with
  | .n, .none => true
  | .b1, .one a => decide (a < 256)
  | .b2, .two a b => decide (a < 256) && decide (b < 256)
  | .x, .one p => decide (p < 65536)
  | _, _ => false

/-- The command a well-formed line stands for; nothing for a line the assembler refuses. -/
def AsmLine.instr (l : AsmLine) : Option Instr :=
  if l.wellFormed then
    match l.mnemonic, l.operands with
    | .nop, .none => some .nop
    | .gfAdd, .two a b => some (.gfAdd (.ofNat 8 a) (.ofNat 8 b))
    | .gfSub, .two a b => some (.gfSub (.ofNat 8 a) (.ofNat 8 b))
    | .gfMul, .two a b => some (.gfMul (.ofNat 8 a) (.ofNat 8 b))
    | .gfDiv, .two a b => some (.gfDiv (.ofNat 8 a) (.ofNat 8 b))
    | .polyAdd, .none => some .polyAdd
    | .polyMul, .none => some .polyMul
    | .polyEval, .one x => some (.polyEval (.ofNat 8 x))
    | .split, .one t => some (.split (.ofNat 8 t))
    | .getShare, .one id => some (.getShare (.ofNat 8 id))
    | .isValid, .one slot => some (.isValid (.ofNat 8 slot))
    | .lagrange, .one p => some (.lagrange (.ofNat 16 p))
    | .recover, .one t => some (.recover (.ofNat 8 t))
    | _, _ => none
  else none

/-- A command is well-formed when the line that stands for it passes the assembler's check. -/
abbrev Instr.wellFormed (i : Instr) : Prop := i.toAsm.wellFormed = true

end Sys2Proof
end

