-- ==== Sys2Proof/Decode.lean ====
section
/-! DEFINITION. The decoder (30_encoding R91 to R95), total on every 32-bit word, and after it the encoder (30_encoding R97). -/

namespace Sys2Proof

/-- The two kinds of ILLEGAL word (30_encoding R95). -/
inductive IllegalWord where
  /-- (a) the opcode is unassigned -/
  | unassignedOpcode
  /-- (b) the opcode is assigned and a reserved (Z) bit is nonzero -/
  | reservedBits
  deriving DecidableEq, Repr

/-- What the decoder answers: a command, or ILLEGAL with its kind. -/
inductive Decoded where
  | instr (i : Instr)
  | illegal (why : IllegalWord)
  deriving DecidableEq, Repr

/-- OPC = w[31:24] (30_encoding R91). -/
def opcOf (w : Word) : Byte := w.extractLsb' 24 8

/-- A = w[23:16] (30_encoding R92). -/
def operandA (w : Word) : Byte := w.extractLsb' 16 8

/-- B = w[15:8] (30_encoding R92). -/
def operandB (w : Word) : Byte := w.extractLsb' 8 8

/-- IDX = w[15:0] (30_encoding R92). -/
def operandIdx (w : Word) : Half := w.extractLsb' 0 16

/-- Format N: bits [23:0] must be 0 (30_encoding R91). -/
def decodeN (w : Word) (i : Instr) : Decoded :=
  if w.extractLsb' 0 24 = 0 then .instr i else .illegal .reservedBits

/-- Format B1: bits [15:0] must be 0 (30_encoding R91). -/
def decodeB1 (w : Word) (f : Byte → Instr) : Decoded :=
  if w.extractLsb' 0 16 = 0 then .instr (f (operandA w)) else .illegal .reservedBits

/-- Format B2: bits [7:0] must be 0 (30_encoding R91). -/
def decodeB2 (w : Word) (f : Byte → Byte → Instr) : Decoded :=
  if w.extractLsb' 0 8 = 0 then .instr (f (operandA w) (operandB w)) else .illegal .reservedBits

/-- Format X: bits [23:16] must be 0 (30_encoding R91). -/
def decodeX (w : Word) (f : Half → Instr) : Decoded :=
  if w.extractLsb' 16 8 = 0 then .instr (f (operandIdx w)) else .illegal .reservedBits

/-- The decoder of 30_encoding R94. -/
def decode (w : Word) : Decoded :=
  match (opcOf w).toNat with
  | 0x00 => decodeN w .nop
  | 0x01 => decodeB2 w .gfAdd
  | 0x02 => decodeB2 w .gfSub
  | 0x03 => decodeB2 w .gfMul
  | 0x04 => decodeB2 w .gfDiv
  | 0x10 => decodeN w .polyAdd
  | 0x11 => decodeN w .polyMul
  | 0x12 => decodeB1 w .polyEval
  | 0x20 => decodeB1 w .split
  | 0x21 => decodeB1 w .getShare
  | 0x22 => decodeB1 w .isValid
  | 0x30 => decodeX w .lagrange
  | 0x31 => decodeB1 w .recover
  | _ => .illegal .unassignedOpcode

/-- The instruction the decoder reads from a table word: every command is exactly one 32-bit word (30_encoding R90), and the
bits above `nbits` are 0. -/
def decodeTableWord (nbits w : Nat) : Option Instr :=
  if nbits ≤ 32 then
    match decode (BitVec.ofNat 32 (w % 2 ^ nbits)) with
    | .instr i => some i
    | .illegal _ => none
  else none

/-- `OPC << 24` (30_encoding R97). -/
def encodeN (opc : Nat) : Word := BitVec.ofNat 32 opc <<< 24

/-- `(OPC << 24) ∣ (a << 16)` (30_encoding R97). -/
def encodeB1 (opc : Nat) (a : Byte) : Word := encodeN opc ||| (a.setWidth 32 <<< 16)

/-- `(OPC << 24) ∣ (a << 16) ∣ (b << 8)` (30_encoding R97). -/
def encodeB2 (opc : Nat) (a b : Byte) : Word := encodeB1 opc a ||| (b.setWidth 32 <<< 8)

/-- `(OPC << 24) ∣ p` (30_encoding R97). -/
def encodeX (opc : Nat) (p : Half) : Word := encodeN opc ||| p.setWidth 32

/-- The word of a command, by the encoding table of 30_encoding R97 and the opcodes of R93. -/
def encode : Instr → Word
  | .nop => encodeN 0x00
  | .gfAdd a b => encodeB2 0x01 a b
  | .gfSub a b => encodeB2 0x02 a b
  | .gfMul a b => encodeB2 0x03 a b
  | .gfDiv a b => encodeB2 0x04 a b
  | .polyAdd => encodeN 0x10
  | .polyMul => encodeN 0x11
  | .polyEval x => encodeB1 0x12 x
  | .split t => encodeB1 0x20 t
  | .getShare id => encodeB1 0x21 id
  | .isValid slot => encodeB1 0x22 slot
  | .lagrange p => encodeX 0x30 p
  | .recover t => encodeB1 0x31 t

/-- One row of the opcode map (30_encoding R93): a word w selects it exactly when (w AND mask) = match. -/
structure OpcodeRow where
  mnemonic : Mnemonic
  pattern : Word
  mask : Word
  deriving DecidableEq, Repr

/-- The opcode map of 30_encoding R93, row by row. -/
def opcodeMap : List OpcodeRow :=
  [⟨.nop, 0x00000000, 0xFFFFFFFF⟩,
   ⟨.gfAdd, 0x01000000, 0xFF0000FF⟩,
   ⟨.gfSub, 0x02000000, 0xFF0000FF⟩,
   ⟨.gfMul, 0x03000000, 0xFF0000FF⟩,
   ⟨.gfDiv, 0x04000000, 0xFF0000FF⟩,
   ⟨.polyAdd, 0x10000000, 0xFFFFFFFF⟩,
   ⟨.polyMul, 0x11000000, 0xFFFFFFFF⟩,
   ⟨.polyEval, 0x12000000, 0xFF00FFFF⟩,
   ⟨.split, 0x20000000, 0xFF00FFFF⟩,
   ⟨.getShare, 0x21000000, 0xFF00FFFF⟩,
   ⟨.isValid, 0x22000000, 0xFF00FFFF⟩,
   ⟨.lagrange, 0x30000000, 0xFFFF0000⟩,
   ⟨.recover, 0x31000000, 0xFF00FFFF⟩]

/-- A word selects a row exactly when (w AND mask) = match (30_encoding R93). -/
def OpcodeRow.selects (r : OpcodeRow) (w : Word) : Bool := (w &&& r.mask) == r.pattern

end Sys2Proof
end

