-- ==== Sys2Proof/Machine/State.lean ====
section
/-! DEFINITION. The state of the core (10_state R20 to R51), the events and answers of its host interface, and the state after
reset (70_reset R240). -/

namespace Sys2Proof.Machine

/-- The completion codes of 60_exceptions R211 (11 to 15 are never written). -/
inductive ErrCode where
  | ok
  | invalidShareId
  | insufficientShares
  | duplicateShareId
  | mismatchedShareLength
  | divisionByZero
  | invalidThreshold
  | noMaterial
  | emptyShare
  | operandRange
  | illegalCommand
  deriving DecidableEq, Repr

/-- What can act next (log 1). Addresses are platform addresses; the window begins at the configured base. -/
inductive Event where
  /-- a host read of `width` bytes (20_memory R70) -/
  | read (addr width : Nat)
  /-- a host write of `width` bytes with the 32-bit value `v` (20_memory R71) -/
  | write (addr width : Nat) (v : Word)
  /-- the host's WAIT loop: read STATUS until BUSY = 0 (30_encoding R98) -/
  | poll
  /-- the random source offers one more byte (10_state R45) -/
  | offer (b : Byte)
  /-- the `rst` input is asserted (70_reset R240) -/
  | rst
  /-- the core sequencer takes its turn: it completes the command in flight (44_control R202) -/
  | core
  deriving DecidableEq, Repr

/-- What the bus answered to one host access (20_memory R70, R71). -/
inductive Answer where
  /-- an OK response to a read, with its value -/
  | readOk (v : Word)
  /-- an OK response to a write -/
  | writeOk
  /-- a bus error response (60_exceptions R214) -/
  | busError
  /-- the address lies outside the window: not this core's access (20_memory R72, log 9) -/
  | notSelected
  deriving DecidableEq, Repr

/-- Bytes by address: a list of cells with strictly rising addresses. An address is listed exactly when something has written
it since the last reset; what an unlisted address reads as is said in Ops (log 4). -/
abbrev Memory := List Host.Cell

/-- The whole state. Spec state first, then the configuration, then the model's own fields (INVENTORY.md, State). -/
structure State where
  /-- CTRL.IE (10_state R25) -/
  ie : Bool
  /-- STATUS.BUSY (10_state R27) -/
  busy : Bool
  /-- STATUS.DONE (10_state R28) -/
  done : Bool
  /-- STATUS.OVR (10_state R29) -/
  ovr : Bool
  /-- STATUS.MAT_VALID (10_state R31) -/
  matValid : Bool
  /-- STATUS.ERR (10_state R30) -/
  err : ErrCode
  /-- CMD (10_state R32) -/
  cmd : Word
  /-- RESULT[7:0] (10_state R33) -/
  result : Byte
  /-- SECRET_LEN (10_state R34) -/
  secretLen : Half
  /-- NSHARES (10_state R35) -/
  nshares : Half
  /-- PA_LEN (10_state R36) -/
  paLen : Half
  /-- PB_LEN (10_state R36) -/
  pbLen : Half
  /-- PR_LEN (10_state R37) -/
  prLen : Half
  /-- OUT_LEN (10_state R38) -/
  outLen : Half
  /-- MAT_N (10_state R39) -/
  matN : Half
  /-- MAT_T (10_state R39) -/
  matT : Byte
  /-- SLEN[i] (10_state R40): the nonzero entries, by strictly rising i; an unlisted entry is 0, its reset value -/
  slen : List (Nat × Half)
  /-- the buffers SECRET, SHARE, OUT, PA, PB, PR (10_state R41 to R44), each byte at its word's window offset -/
  mem : Memory
  /-- COEF (10_state R46): COEF[p][k] at 255 p + k; in no window -/
  coef : Memory
  /-- the random bytes an in-flight SPLIT has taken, oldest first (10_state R48) -/
  held : List Byte
  /-- the configuration (00_scope R5) -/
  cfg : Config
  /-- MODEL's own: the bytes the random source has ready, in order (42_splitter R162, log 7) -/
  offers : List Byte
  /-- MODEL's own: the events to come (log 1) -/
  agenda : List Event
  /-- MODEL's own: the bus answers given, latest first (log 9) -/
  answers : List Answer
  /-- MODEL's own: the index of the buffers' reset draws (log 4) -/
  bufEpoch : Nat
  /-- MODEL's own: the index of COEF's draws (log 5) -/
  coefEpoch : Nat
  /-- MODEL's own: how many unspecified reads were made (log 6) -/
  busyReads : Nat
  deriving DecidableEq, Repr

/-- The reasons a step can stop with a fault: none. "An error does not stop the core" (60_exceptions R210), a bus error is only
an answer (R214), and the core takes no traps (R219). -/
inductive Fault where
  deriving DecidableEq, Repr

/-- The reasons a step can be refused. -/
inductive Refusal where
  /-- Raised by exec's arm of an instruction that has no meaning yet; safe. No arm raises it now. -/
  | notModelled (mnemonic : String)
  deriving DecidableEq, Repr

/-- The machine right after reset (70_reset R240), in the reference configuration, with nothing to come (log 2). -/
def State.reset : State where
  ie := false
  busy := false
  done := false
  ovr := false
  matValid := false
  err := .ok
  cmd := 0
  result := 0
  secretLen := 0
  nshares := 0
  paLen := 0
  pbLen := 0
  prLen := 0
  outLen := 0
  matN := 0
  matT := 0
  slen := []
  mem := []
  coef := []
  held := []
  cfg := Config.reference
  offers := []
  agenda := []
  answers := []
  bufEpoch := 0
  coefEpoch := 0
  busyReads := 0

end Sys2Proof.Machine
end

