-- ==== Sys2Proof/Machine/Ops.lean ====
section
/-! DEFINITION. The shared operations: sparse cells, the buffers at their window offsets (20_memory R61), COEF, the SLEN file,
completion and raise (00_scope R10, 44_control R202), and reset (70_reset R240, R244). -/

namespace Sys2Proof.Machine

/-- The answer type of every meaning. -/
abbrev Out := Host.Outcome State Fault Refusal

/-! ### Sparse cells -/

/-- The value listed for a key, if any. -/
def Cells.find {α : Type} : List (Nat × α) → Nat → Option α
  | [], _ => none
  | (b, w) :: m, a => if a = b then some w else Cells.find m a

/-- Lists a value for a key, keeping the keys strictly rising. -/
def Cells.put {α : Type} : List (Nat × α) → Nat → α → List (Nat × α)
  | [], a, v => [(a, v)]
  | (b, w) :: m, a, v =>
    if a < b then (a, v) :: (b, w) :: m
    else if a = b then (a, v) :: m
    else (b, w) :: Cells.put m a v

/-- Takes a key out of the list. -/
def Cells.drop {α : Type} (m : List (Nat × α)) (a : Nat) : List (Nat × α) :=
  m.filter fun c => c.1 ≠ a

/-- The canonical form: strictly rising keys. -/
abbrev Cells.wf {α : Type} (m : List (Nat × α)) : Prop := (m.map Prod.fst).Pairwise (· < ·)

/-- The canonical form of a memory. An unlisted address reads as no byte at this level (nothing has written it since reset),
so no entry can equal it and equal memories are equal lists (log 4). -/
abbrev Memory.wf (m : Memory) : Prop := Cells.wf m

/-- Writes bytes to consecutive buffer words, one byte per 32-bit word (20_memory R62, R63). -/
def Memory.writeFrom (m : Memory) (base : Nat) : List Byte → Memory
  | [] => m
  | v :: vs => Memory.writeFrom (Cells.put m base v) (base + 4) vs

/-! ### The buffers -/

/-- One element of a buffer (10_state R41 to R44). -/
inductive Buf where
  | secret (p : Nat)
  | out (b : Nat)
  | pa (j : Nat)
  | pb (j : Nat)
  | pr (j : Nat)
  | share (i b : Nat)
  deriving DecidableEq, Repr

/-- The window offset of an element (20_memory R61). -/
def Buf.offset : Buf → Nat
  | .secret p => 0x010000 + 4 * p
  | .out b => 0x020000 + 4 * b
  | .pa j => 0x030000 + 4 * j
  | .pb j => 0x034000 + 4 * j
  | .pr j => 0x038000 + 4 * j
  | .share i b => 0x100000 + 0x4000 * i + 4 * b

/-- The elements that exist in a configuration (20_memory R61). -/
def Buf.inRange (c : Config) : Buf → Bool
  | .secret p => p < c.nmax
  | .out b => b ≤ c.nmax
  | .pa j | .pb j | .pr j => j < c.pcap
  | .share i b => i < c.kmax && b ≤ c.nmax

/-- The buffers the host can write (20_memory R61, R68). -/
def Buf.hostWritable : Buf → Bool
  | .secret _ | .pa _ | .pb _ | .share _ _ => true
  | .out _ | .pr _ => false

/-- The byte in the buffer word at a window offset: what was last written there, or the reset draw, which is a free value
(70_reset R241, log 4). -/
def State.byteAt (s : State) (off : Nat) : Byte :=
  (Cells.find s.mem off).getD (Config.resetDraw s.bufEpoch off)

/-- `n` consecutive elements of a buffer from a window offset on. -/
def State.bytesFrom (s : State) (base n : Nat) : List Byte :=
  (List.range n).map fun k => s.byteAt (base + 4 * k)

/-- Writes a list of bytes into consecutive buffer words. -/
def State.storeBytes (s : State) (base : Nat) (l : List Byte) : State :=
  { s with mem := Memory.writeFrom s.mem base l }

/-! ### SLEN and COEF -/

/-- SLEN[i] (10_state R40): an unlisted entry holds 0, its reset value. -/
def State.slenAt (s : State) (i : Nat) : Half := (Cells.find s.slen i).getD 0#16

/-- SLEN[i] <- v, keeping only nonzero entries listed. -/
def State.setSlen (s : State) (i : Nat) (v : Half) : State :=
  { s with slen := if v = 0#16 then Cells.drop s.slen i else Cells.put s.slen i v }

/-- Where COEF[p][k] lies in the model's list of COEF (k < 255, 10_state R46). -/
def coefKey (p k : Nat) : Nat := 255 * p + k

/-- COEF[p][k]; an entry no SPLIT has written is a free value (10_state R46, I2, log 5). -/
def State.coefAt (s : State) (p k : Nat) : Byte :=
  (Cells.find s.coef (coefKey p k)).getD (Config.coefDraw s.coefEpoch (coefKey p k))

/-! ### Completion, raise, reset -/

/-- The end of a command (44_control R202): ERR takes the code, DONE <- 1, BUSY <- 0, and the in-flight state is gone. -/
def finish (e : ErrCode) (s : State) : State :=
  { s with err := e, done := true, busy := false, held := [] }

/-- `complete(OK)` (00_scope R10, 44_control R202), applied to the state with the command's writes. -/
def complete (s : State) : State := finish .ok s

/-- `raise E` (00_scope R10, 44_control R202, 60_exceptions R212), applied to the state before the command. This is the core's
whole exception mechanism: there is no trap entry and no return (60_exceptions R219, R220). -/
def raise (e : ErrCode) (s : State) : State := finish e s

/-- A hard or soft reset (70_reset R240, R244): every state element takes its reset value; the buffers and COEF are redrawn
(R241). The configuration stays (R242), and so does what lies outside the core (log 13). -/
def State.afterReset (s : State) : State :=
  { State.reset with
    cfg := s.cfg
    offers := s.offers
    agenda := s.agenda
    answers := s.answers
    bufEpoch := s.bufEpoch + 1
    coefEpoch := s.coefEpoch + 1
    busyReads := s.busyReads }

end Sys2Proof.Machine
end

