-- ==== Sys2Proof/Machine/Control.lean ====
section
/-! DEFINITION. Command control (44_control): acceptance, and NOP. -/

namespace Sys2Proof.Machine

/-- Acceptance of a word written to CMD while BUSY = 0 (44_control R201): it decodes and checks nothing. -/
def accept (w : Word) (s : State) : State := { s with cmd := w, busy := true, done := false }

/-- `NOP` (44_control R200). -/
def execNop (s : State) : Out := .next (complete s)

end Sys2Proof.Machine
end

