-- ==== Sys2Proof/Machine/Flags.lean ====
section
/-! DEFINITION. STATUS, CTRL and the outputs computed from them (10_state R25 to R31, R47). The core has no condition codes
(R49); a command's only flag effects are those of finish (44_control R202). -/

namespace Sys2Proof.Machine

/-- The completion codes of 60_exceptions R211. -/
def ErrCode.code : ErrCode → BitVec 4
  | .ok => 0
  | .invalidShareId => 1
  | .insufficientShares => 2
  | .duplicateShareId => 3
  | .mismatchedShareLength => 4
  | .divisionByZero => 5
  | .invalidThreshold => 6
  | .noMaterial => 7
  | .emptyShare => 8
  | .operandRange => 9
  | .illegalCommand => 10

/-- `zext_32({ERR, MAT_VALID, OVR, DONE, BUSY})` (10_state R26, 20_memory R70). -/
def State.statusWord (s : State) : Word :=
  (s.err.code ++ BitVec.ofBool s.matValid ++ BitVec.ofBool s.ovr ++ BitVec.ofBool s.done ++ BitVec.ofBool s.busy).setWidth 32

/-- `zext_32(IE)`; SRST reads 0 (10_state R25, 20_memory R70). -/
def State.ctrlWord (s : State) : Word := (BitVec.ofBool s.ie).setWidth 32

/-- `{0, MAT_T, MAT_N}` (10_state R39). -/
def State.matInfoWord (s : State) : Word := (s.matT ++ s.matN).setWidth 32

/-- The interrupt output: DONE AND IE (10_state R47). -/
def State.irq (s : State) : Bool := s.done && s.ie

/-- A host write to STATUS: bit 1 clears DONE, bit 2 clears OVR, nothing else changes (10_state R26, 20_memory R71). -/
def State.writeStatus (s : State) (v : Word) : State :=
  { s with done := s.done && !v.getLsbD 1, ovr := s.ovr && !v.getLsbD 2 }

/-- A host write to CTRL: bit 1 resets the core and the rest of the write is ignored; else IE <- bit 0 (10_state R25,
20_memory R71, 70_reset R244). -/
def State.writeCtrl (s : State) (v : Word) : State :=
  if v.getLsbD 1 then s.afterReset else { s with ie := v.getLsbD 0 }

end Sys2Proof.Machine
end

