-- ==== Sys2Proof/Machine/Bus.lean ====
section
/-! DEFINITION. The host window (20_memory): its map, MemRead, MemWrite, and what every event but the core's own turn does. -/

namespace Sys2Proof.Machine

/-- The registers at offsets 0x000000 to 0x000034 (20_memory R61). -/
inductive Reg where
  | id | param0 | param1 | ctrl | status | cmd | result | secretLen | nshares | paLen | pbLen | prLen | outLen | matInfo
  deriving DecidableEq, Repr

/-- What an offset of the window names (20_memory R61). -/
inductive Loc where
  | reg (r : Reg)
  | slen (i : Nat)
  | buf (b : Buf)
  deriving DecidableEq, Repr

/-- The registers in offset order, one word each from offset 0 on (20_memory R61). -/
def regMap : List Reg :=
  [.id, .param0, .param1, .ctrl, .status, .cmd, .result, .secretLen, .nshares, .paLen, .pbLen, .prLen, .outLen, .matInfo]

/-- The buffer element that a word offset at or above 0x010000 would name, before its range is checked (20_memory R61). -/
def bufAt (off : Nat) : Buf :=
  if off < 0x020000 then .secret ((off - 0x010000) / 4)
  else if off < 0x030000 then .out ((off - 0x020000) / 4)
  else if off < 0x034000 then .pa ((off - 0x030000) / 4)
  else if off < 0x038000 then .pb ((off - 0x034000) / 4)
  else if off < 0x100000 then .pr ((off - 0x038000) / 4)
  else .share ((off - 0x100000) / 0x4000) ((off - 0x100000) % 0x4000 / 4)

/-- The host window map (20_memory R61): what an aligned offset names, or nothing where it is unmapped (R67). -/
def locate (c : Config) (off : Nat) : Option Loc :=
  if off < 0x001000 then (regMap[off / 4]?).map .reg
  else if off < 0x010000 then
    if (off - 0x001000) / 4 < c.kmax then some (.slen ((off - 0x001000) / 4)) else none
  else if (bufAt off).inRange c then some (.buf (bufAt off)) else none

/-- What a read of a register returns while it is defined (10_state R21 to R39, 20_memory R70). -/
def State.regValue (s : State) : Reg → Word
  | .id => 0x53530007
  | .param0 => BitVec.ofNat 16 s.cfg.kmax ++ BitVec.ofNat 16 s.cfg.nmax
  | .param1 => (BitVec.ofNat 16 s.cfg.pcap).setWidth 32
  | .ctrl => s.ctrlWord
  | .status => s.statusWord
  | .cmd => s.cmd
  | .result => s.result.setWidth 32
  | .secretLen => s.secretLen.setWidth 32
  | .nshares => s.nshares.setWidth 32
  | .paLen => s.paLen.setWidth 32
  | .pbLen => s.pbLen.setWidth 32
  | .prLen => s.prLen.setWidth 32
  | .outLen => s.outLen.setWidth 32
  | .matInfo => s.matInfoWord

/-- What a read of a mapped word returns while it is defined (20_memory R62, R70). -/
def State.locValue (s : State) : Loc → Word
  | .reg r => s.regValue r
  | .slen i => (s.slenAt i).setWidth 32
  | .buf b => (s.byteAt b.offset).setWidth 32

/-- The registers whose reads stay defined while BUSY = 1 (70_reset R248). -/
def Loc.readableBusy : Loc → Bool
  | .reg .id | .reg .param0 | .reg .param1 | .reg .ctrl | .reg .status | .reg .cmd => true
  | _ => false

/-- `MemRead(off, w)` (20_memory R70). A read has no effect on the core; an unspecified read during BUSY uses up one draw
(70_reset R248, log 6). -/
def memRead (off w : Nat) (s : State) : Answer × State :=
  if w ≠ 4 ∨ off % 4 ≠ 0 then (.busError, s)
  else
    match locate s.cfg off with
    | none => (.busError, s)
    | some l =>
      if s.busy && !l.readableBusy then
        (.readOk (Config.busyReadDraw s.busyReads), { s with busyReads := s.busyReads + 1 })
      else (.readOk (s.locValue l), s)

/-- What a write to a register does while it is not dropped, CTRL and STATUS included (20_memory R68, R71). -/
def State.writeReg (s : State) (r : Reg) (v : Word) : State :=
  match r with
  | .ctrl => s.writeCtrl v
  | .status => s.writeStatus v
  | .cmd => accept v s
  | .secretLen => { s with secretLen := v.setWidth 16 }
  | .nshares => { s with nshares := v.setWidth 16 }
  | .paLen => { s with paLen := v.setWidth 16 }
  | .pbLen => { s with pbLen := v.setWidth 16 }
  | .id | .param0 | .param1 | .result | .prLen | .outLen | .matInfo => s

/-- What a write to a mapped word does while it is not dropped (20_memory R62, R68, R71). -/
def State.writeLoc (s : State) (l : Loc) (v : Word) : State :=
  match l with
  | .reg r => s.writeReg r v
  | .slen i => s.setSlen i (v.setWidth 16)
  | .buf b => if b.hostWritable then s.storeBytes b.offset [v.setWidth 8] else s

/-- The registers whose writes take effect while BUSY = 1 (70_reset R247). -/
def Loc.writableBusy : Loc → Bool
  | .reg .ctrl | .reg .status => true
  | _ => false

/-- `MemWrite(off, w, v)` (20_memory R71). -/
def memWrite (off w : Nat) (v : Word) (s : State) : Answer × State :=
  if w ≠ 4 ∨ off % 4 ≠ 0 then (.busError, s)
  else
    match locate s.cfg off with
    | none => (.busError, s)
    | some l =>
      if s.busy && !l.writableBusy then (.writeOk, { s with ovr := true })
      else (.writeOk, s.writeLoc l v)

/-- The window offset of a platform address: 2^24 bytes from the base on (20_memory R60, R72). -/
def Config.offsetOf (c : Config) (addr : Nat) : Option Nat :=
  if c.base ≤ addr ∧ addr < c.base + 0x1000000 then some (addr - c.base) else none

/-- Keeps an answer for the record, latest first (log 9). -/
def State.answer (s : State) (a : Answer) : State := { s with answers := a :: s.answers }

/-- A host read at a platform address (20_memory R70; log 9 for an address outside the window). -/
def hostRead (addr w : Nat) (s : State) : State :=
  match Config.offsetOf s.cfg addr with
  | none => s.answer .notSelected
  | some off => (memRead off w s).2.answer (memRead off w s).1

/-- A host write at a platform address (20_memory R71; log 9 for an address outside the window). -/
def hostWrite (addr w : Nat) (v : Word) (s : State) : State :=
  match Config.offsetOf s.cfg addr with
  | none => s.answer .notSelected
  | some off => (memWrite off w v s).2.answer (memWrite off w v s).1

/-- One turn of the host's WAIT loop: it reads STATUS, and while BUSY = 1 it comes back after the core's turn
(30_encoding R98, log 1). -/
def hostPoll (s : State) : State :=
  let s' := hostRead (s.cfg.base + 0x000010) 4 s
  if s.busy then { s' with agenda := .core :: .poll :: s'.agenda } else s'

/-- What an event from outside the core does. The core's own turn is no such event: step runs it. -/
def external (e : Event) (s : State) : State :=
  match e with
  | .read addr w => hostRead addr w s
  | .write addr w v => hostWrite addr w v s
  | .poll => hostPoll s
  | .offer b => { s with offers := s.offers ++ [b] }
  | .rst => s.afterReset
  | .core => s

end Sys2Proof.Machine
end

