-- ==== Sys2Proof/Machine/Operands.lean ====
section
/-! DEFINITION. The operands a command reads besides its word (70_reset R245): the secret, the polynomials in PA and PB, share
slots, sample points and the material. -/

namespace Sys2Proof.Machine

/-- `SECRET[0..SECRET_LEN - 1]` (42_splitter R161). -/
def State.secretBytes (s : State) : List Byte := s.bytesFrom (Buf.secret 0).offset s.secretLen.toNat

/-- The polynomial `[PA[0], …, PA[PA_LEN - 1]]` (41_polynomial R140). -/
def State.polyA (s : State) : List Byte := s.bytesFrom (Buf.pa 0).offset s.paLen.toNat

/-- The polynomial `[PB[0], …, PB[PB_LEN - 1]]` (41_polynomial R140). -/
def State.polyB (s : State) : List Byte := s.bytesFrom (Buf.pb 0).offset s.pbLen.toNat

/-- `SHARE[i][b]` (20_memory R64). -/
def State.shareByte (s : State) (i b : Nat) : Byte := s.byteAt (Buf.share i b).offset

/-- `SHARE[i][0..n - 1]` (42_splitter R165). -/
def State.shareBytes (s : State) (i n : Nat) : List Byte := s.bytesFrom (Buf.share i 0).offset n

/-- The id bytes of slots 0..k-1 (43_recoverer R184). -/
def State.slotIds (s : State) (k : Nat) : List Byte := (List.range k).map fun i => s.shareByte i 0

/-- The points (SHARE[i][0], SHARE[i][p]) for i < k (43_recoverer R183, R184). -/
def State.points (s : State) (k p : Nat) : List (Byte × Byte) :=
  (List.range k).map fun i => (s.shareByte i 0, s.shareByte i p)

/-- `poly_p = [COEF[p][0], …, COEF[p][MAT_T - 1]]` (42_splitter R160). -/
def State.materialPoly (s : State) (p : Nat) : List Byte :=
  (List.range s.matT.toNat).map fun k => s.coefAt p k

end Sys2Proof.Machine
end

