-- ==== Sys2Proof/Machine/Polynomial.lean ====
section
/-! DEFINITION. The polynomial engine (41_polynomial): padd, pmul, peval, and the commands POLY_ADD, POLY_MUL, POLY_EVAL. A
polynomial is the list of its coefficients, index 0 the constant term; its length is part of its value (R140). -/

namespace Sys2Proof.Machine

/-- `padd(a, b)` (41_polynomial R141): the shorter operand is padded with zeros; trailing zeros stay. -/
def padd (a b : List Byte) : List Byte :=
  (List.range (max a.length b.length)).map fun k => gfAdd (a.getD k 0#8) (b.getD k 0#8)

/-- `x^j · c · a(x)`: the j-th term of the product (41_polynomial R142). -/
def pmulTerm (a : List Byte) (j : Nat) (c : Byte) : List Byte :=
  List.replicate j 0#8 ++ a.map (gfMul c)

/-- The loop of pmul over the coefficients of b from position j on (41_polynomial R142). -/
def pmulLoop (a : List Byte) : Nat → List Byte → List Byte → List Byte
  | _, [], acc => acc
  | j, c :: b, acc => pmulLoop a (j + 1) b (padd acc (pmulTerm a j c))

/-- `pmul(a, b)` (41_polynomial R142): the empty polynomial when an operand is empty (D25). -/
def pmul (a b : List Byte) : List Byte :=
  if a.length = 0 ∨ b.length = 0 then [] else pmulLoop a 0 b []

/-- The loop of peval: the running power xp and the accumulator acc (41_polynomial R143). -/
def pevalLoop (x : Byte) : List Byte → Byte → Byte → Byte
  | [], acc, _ => acc
  | c :: cs, acc, xp => pevalLoop x cs (gfAdd acc (gfMul c xp)) (gfMul xp x)

/-- `peval(c, x)` by the running power (41_polynomial R143, D37). -/
def peval (c : List Byte) (x : Byte) : Byte := pevalLoop x c 0x00#8 0x01#8

/-- PR[0..len(r)-1] <- r and PR_LEN <- len(r); the other PR bytes keep their values (10_state R37, R44). -/
def State.setPr (s : State) (r : List Byte) : State :=
  { s.storeBytes (Buf.pr 0).offset r with prLen := BitVec.ofNat 16 r.length }

/-- Both operand lengths fit their buffers (41_polynomial R144, R145). -/
def State.polyLensOk (s : State) : Bool := s.paLen.toNat ≤ s.cfg.pcap && s.pbLen.toNat ≤ s.cfg.pcap

/-- `POLY_ADD` (41_polynomial R144). -/
def execPolyAdd (s : State) : Out :=
  if ¬ s.polyLensOk then .next (raise .operandRange s)
  else .next (complete (s.setPr (padd s.polyA s.polyB)))

/-- `POLY_MUL` (41_polynomial R145). -/
def execPolyMul (s : State) : Out :=
  if ¬ s.polyLensOk then .next (raise .operandRange s)
  else if 0 < s.paLen.toNat ∧ 0 < s.pbLen.toNat ∧ s.cfg.pcap < s.paLen.toNat + s.pbLen.toNat - 1 then
    .next (raise .operandRange s)
  else .next (complete (s.setPr (pmul s.polyA s.polyB)))

/-- `POLY_EVAL x` (41_polynomial R146). -/
def execPolyEval (x : Byte) (s : State) : Out :=
  if s.cfg.pcap < s.paLen.toNat then .next (raise .operandRange s)
  else .next (complete (s.setResult (peval s.polyA x)))

end Sys2Proof.Machine
end

