-- ==== Sys2Proof/Machine/Splitter.lean ====
section
/-! DEFINITION. The splitter pipeline (42_splitter): the material, its shares, the random-source port's use, and the commands
SPLIT, GET_SHARE, IS_VALID. -/

namespace Sys2Proof.Machine

/-- How many random bytes SPLIT t takes: n · (T - 1) (42_splitter R162). -/
def State.splitNeed (s : State) (t : Byte) : Nat := s.secretLen.toNat * (t.toNat - 1)

/-- The material of a secret: C[p][0] is the secret byte, and C[p][k] for 1 ≤ k < T is the drawn byte number p (T - 1) + (k - 1)
(42_splitter R161, R162). -/
def materialCells (t : Nat) (draws : List Byte) : Nat → List Byte → Memory
  | _, [] => []
  | p, c :: secret =>
    (List.range t).map (fun k => (coefKey p k, if k = 0 then c else draws.getD (p * (t - 1) + (k - 1)) 0#8)) ++
      materialCells t draws (p + 1) secret

/-- The handshakes of one turn: the core takes the bytes the source has ready, oldest first, until it holds `need`
(10_state R45, R48, log 8). -/
def State.takeDraws (s : State) (need : Nat) : State :=
  { s with
    held := s.held ++ s.offers.take (need - s.held.length)
    offers := s.offers.drop (need - s.held.length) }

/-- SPLIT's commit: COEF, MAT_N, MAT_T, MAT_VALID; COEF outside the live material is redrawn (42_splitter R161, log 5). -/
def State.setMaterial (s : State) (t : Byte) : State :=
  { s with
    coef := materialCells t.toNat s.held 0 s.secretBytes
    coefEpoch := s.coefEpoch + 1
    matN := s.secretLen
    matT := t
    matValid := true }

/-- `SPLIT T` (42_splitter R161). Without enough random bytes it waits: BUSY stays, and the bytes taken are held
(10_state R45, R48; log 7). -/
def execSplit (t : Byte) (s : State) : Out :=
  if t = 0#8 then .next (raise .invalidThreshold s)
  else if s.cfg.nmax < s.secretLen.toNat then .next (raise .operandRange s)
  else if (s.takeDraws (s.splitNeed t)).held.length < s.splitNeed t then .next (s.takeDraws (s.splitNeed t))
  else .next (complete ((s.takeDraws (s.splitNeed t)).setMaterial t))

/-- The output `rng_ready`: 1 exactly while a SPLIT in flight still needs a byte (10_state R45, log 8). -/
def State.rngReady (s : State) : Bool :=
  s.busy &&
    match decode s.cmd with
    | .instr (.split t) =>
      decide (t ≠ 0#8) && decide (s.secretLen.toNat ≤ s.cfg.nmax) && decide (s.held.length < s.splitNeed t)
    | _ => false

/-- `mkshare(id) = [id] ++ [peval(poly_p, id) for p in 0..MAT_N]` (42_splitter R163). -/
def State.mkshare (s : State) (id : Byte) : List Byte :=
  id :: (List.range s.matN.toNat).map fun p => peval (s.materialPoly p) id

/-- OUT[0..len-1] <- l and OUT_LEN <- len; the other OUT bytes keep their values (10_state R38, R43). -/
def State.setOut (s : State) (l : List Byte) : State :=
  { s.storeBytes (Buf.out 0).offset l with outLen := BitVec.ofNat 16 l.length }

/-- `GET_SHARE id` (42_splitter R163). -/
def execGetShare (id : Byte) (s : State) : Out :=
  if id = 0#8 then .next (raise .invalidShareId s)
  else if s.matValid = false then .next (raise .noMaterial s)
  else .next (complete (s.setOut (s.mkshare id)))

/-- The boolean of IS_VALID: the share of length n in the slot equals GetShare of its own id byte, byte for byte
(42_splitter R165, D23). -/
def State.shareMatches (s : State) (slot n : Nat) : Bool :=
  decide (1 ≤ n) && decide (s.shareByte slot 0 ≠ 0#8) && decide (n = s.matN.toNat + 1) &&
    decide (s.shareBytes slot n = s.mkshare (s.shareByte slot 0))

/-- `IS_VALID s` (42_splitter R165). -/
def execIsValid (slot : Byte) (s : State) : Out :=
  if s.cfg.kmax ≤ slot.toNat then .next (raise .operandRange s)
  else if s.cfg.nmax + 1 < (s.slenAt slot.toNat).toNat then .next (raise .operandRange s)
  else if s.matValid = false then .next (raise .noMaterial s)
  else
    .next (complete (s.setResult (if s.shareMatches slot.toNat (s.slenAt slot.toNat).toNat then 0x01#8 else 0x00#8)))

end Sys2Proof.Machine
end

