-- ==== Sys2Proof/Machine/Recoverer.lean ====
section
/-! DEFINITION. The Lagrange core and the recoverer pipeline (43_recoverer): lagrange, and the commands LAGRANGE, RECOVER. -/

namespace Sys2Proof.Machine

/-- The basis polynomial L_i: the product of the factors [x_j/(x_i - x_j), 1/(x_i - x_j)] over the points j other than i, from
point j on; nothing when a division raises DIVISION_BY_ZERO (43_recoverer R180, R181). -/
def basisLoop (xi : Byte) (i : Nat) : Nat → List (Byte × Byte) → List Byte → Option (List Byte)
  | _, [], acc => some acc
  | j, (xj, _) :: pts, acc =>
    if j = i then basisLoop xi i (j + 1) pts acc
    else
      match gfDiv xj (gfSub xi xj), gfDiv 0x01#8 (gfSub xi xj) with
      | some c0, some c1 => basisLoop xi i (j + 1) pts (pmul acc [c0, c1])
      | _, _ => none

/-- The outer loop of lagrange from point i on: scale L_i by y_i, unconditionally (R187), and add (43_recoverer R180). -/
def lagrangeLoop (pts : List (Byte × Byte)) : Nat → List (Byte × Byte) → List Byte → Option (List Byte)
  | _, [], acc => some acc
  | i, (xi, yi) :: rest, acc =>
    match basisLoop xi i 0 pts [0x01#8] with
    | some l => lagrangeLoop pts (i + 1) rest (padd acc (pmul l [yi]))
    | none => none

/-- `lagrange(pts)`; nothing when it raises DIVISION_BY_ZERO (43_recoverer R180). -/
def lagrange (pts : List (Byte × Byte)) : Option (List Byte) := lagrangeLoop pts 0 pts []

/-- Some slot i < k is longer than a share can be (43_recoverer R183, R184). -/
def State.slotTooLong (s : State) (k : Nat) : Bool :=
  (List.range k).any fun i => s.cfg.nmax + 1 < (s.slenAt i).toNat

/-- `LAGRANGE p` (43_recoverer R183). -/
def execLagrange (p : Half) (s : State) : Out :=
  let k := s.nshares.toNat
  if s.cfg.kmax < k then .next (raise .operandRange s)
  else if s.slotTooLong k then .next (raise .operandRange s)
  else if (List.range k).any fun i => (s.slenAt i).toNat ≤ p.toNat then .next (raise .operandRange s)
  else
    match lagrange (s.points k p.toNat) with
    | none => .next (raise .divisionByZero s)
    | some r => .next (complete ((s.setPr r).setResult (r.getD 0 0x00#8)))

/-- The constant term of the interpolation at each payload position p from 1 to n (43_recoverer R184 step 4). -/
def State.recoverBytes (s : State) (k : Nat) : Nat → Option (List Byte)
  | 0 => some []
  | n + 1 =>
    match s.recoverBytes k n, lagrange (s.points k (n + 1)) with
    | some sec, some r => some (sec ++ [r.getD 0 0x00#8])
    | _, _ => none

/-- `RECOVER T` (43_recoverer R184). DIVISION_BY_ZERO cannot occur after the duplicate check; it would be raised, not
swallowed (R185). -/
def execRecover (t : Byte) (s : State) : Out :=
  let k := s.nshares.toNat
  if s.cfg.kmax < k then .next (raise .operandRange s)
  else if k = 0 ∨ k < t.toNat then .next (raise .insufficientShares s)
  else if s.slotTooLong k then .next (raise .operandRange s)
  else if (List.range k).any fun i => s.slenAt i = 0#16 then .next (raise .emptyShare s)
  else if ¬ (s.slotIds k).Nodup then .next (raise .duplicateShareId s)
  else if (List.range k).any fun i => s.slenAt i ≠ s.slenAt 0 then .next (raise .mismatchedShareLength s)
  else
    match s.recoverBytes k ((s.slenAt 0).toNat - 1) with
    | none => .next (raise .divisionByZero s)
    | some sec => .next (complete (s.setOut sec))

end Sys2Proof.Machine
end

