-- ==== Sys2Proof/Machine/Dispatch.lean ====
section
/-! DEFINITION. The completion of a command (44_control R202): one arm per command. -/

namespace Sys2Proof.Machine

def exec (i : Instr) (s : State) : Host.Outcome State Fault Refusal :=
  match i with
  | .nop => Sys2Proof.Machine.execNop s
  | .gfAdd a b => Sys2Proof.Machine.execGfAdd a b s
  | .gfSub a b => Sys2Proof.Machine.execGfSub a b s
  | .gfMul a b => Sys2Proof.Machine.execGfMul a b s
  | .gfDiv a b => Sys2Proof.Machine.execGfDiv a b s
  | .polyAdd => Sys2Proof.Machine.execPolyAdd s
  | .polyMul => Sys2Proof.Machine.execPolyMul s
  | .polyEval x => Sys2Proof.Machine.execPolyEval x s
  | .split t => Sys2Proof.Machine.execSplit t s
  | .getShare id => Sys2Proof.Machine.execGetShare id s
  | .isValid slot => Sys2Proof.Machine.execIsValid slot s
  | .lagrange p => Sys2Proof.Machine.execLagrange p s
  | .recover t => Sys2Proof.Machine.execRecover t s

end Sys2Proof.Machine
end

