-- ==== Sys2Proof/Machine/Sequencer.lean ====
section
/-! DEFINITION. The core sequencer's turn (44_control R202). -/

namespace Sys2Proof.Machine

/-- The completion of the command in flight: decode CMD and run its command; an ILLEGAL word raises ILLEGAL_COMMAND
(44_control R202, 30_encoding R95). -/
def completeInFlight (s : State) : Out :=
  match decode s.cmd with
  | .instr i => exec i s
  | .illegal _ => .next (raise .illegalCommand s)

/-- The core's turn: the command in flight completes; an idle core changes nothing (60_exceptions R227). -/
def coreTurn (s : State) : Out :=
  if s.busy then completeInFlight s else .next s

end Sys2Proof.Machine
end

