-- ==== Sys2Proof/Machine/Step.lean ====
section
/-! DEFINITION. One step: the next event of the agenda, or the core's turn when nothing is to come (20_memory R73, 70_reset R252
premise (a); log 1). -/

namespace Sys2Proof.Machine

/-- One step of the machine. -/
def step (s : State) : Host.Outcome State Fault Refusal :=
  match s.agenda with
  | [] => coreTurn s
  | .core :: rest => coreTurn { s with agenda := rest }
  | e :: rest => .next (external e { s with agenda := rest })

/-- The state in which the command word was just accepted and the core's turn comes next, so that the next step completes
exactly that command (44_control R201, R202; log 2). -/
def State.withFetchWord (s : State) (nbits w : Nat) : State :=
  { accept (BitVec.ofNat 32 (w % 2 ^ nbits)) s with held := [], agenda := .core :: s.agenda }

end Sys2Proof.Machine
end

