-- ==== Sys2Proof/Machine/HostNotation.lean ====
section
/-! DEFINITION. The host's straight-line program notation (30_encoding R98), as the events it puts on the agenda. What a host
does with the values it reads is host software, outside the core (10_state R24, log 14). -/

namespace Sys2Proof.Machine

/-- `WR off, v`: MemWrite(off, 4, v). -/
def noteWR (c : Config) (off : Nat) (v : Word) : List Event := [.write (c.base + off) 4 v]

/-- `RD off`: MemRead(off, 4). -/
def noteRD (c : Config) (off : Nat) : List Event := [.read (c.base + off) 4]

/-- `CMD m ops`: WR 0x000014 with the encoding of the command. -/
def noteCMD (c : Config) (i : Instr) : List Event := noteWR c 0x000014 (encode i)

/-- `WAIT`: the polling loop on STATUS. -/
def noteWAIT : List Event := [.poll]

/-- `RUN m ops`: CMD, then WAIT. -/
def noteRUN (c : Config) (i : Instr) : List Event := noteCMD c i ++ noteWAIT

/-- `LOADBUF base, [v0, …]`: WR base + 4 k, v_k in increasing k. DESIGN CHOICE (log 14): R98 gives the v_k no range; the model
takes any 32-bit value, as WR does, of which a buffer word keeps bits [7:0] (20_memory R62). -/
def noteLOADBUF (c : Config) (base : Nat) : List Word → List Event
  | [] => []
  | v :: vs => noteWR c base v ++ noteLOADBUF c (base + 4) vs

/-- `LOADSHARE i, [v0, …]`: LOADBUF into slot i, then WR SLEN[i], the number of values. DESIGN CHOICE (log 14): the v_k are any
32-bit values. -/
def noteLOADSHARE (c : Config) (i : Nat) (l : List Word) : List Event :=
  noteLOADBUF c (0x100000 + 0x4000 * i) l ++ noteWR c (0x001000 + 4 * i) (BitVec.ofNat 32 l.length)

end Sys2Proof.Machine
end

