-- ==== Sys2Proof/Safety.lean ====
section
/-! DEFINITION. The terms claims are made in: the invariant of the core (10_state R50 and more), and the field, polynomial and
interpolation notions of the spec written without the ROMs and loops the machine uses. -/

namespace Sys2Proof.Machine

/-! ### The field without the ROMs -/

/-- The carry-less product of two bytes: the XOR of a shifted by i over the bits i of b (40_field R132). -/
def carrylessProduct (a b : Byte) : BitVec 16 :=
  (List.range 8).foldl (fun acc i => if b.getLsbD i then acc ^^^ (a.setWidth 16 <<< i) else acc) 0

/-- Reduction modulo x⁸+x⁴+x³+x+1, bit pattern 0x11B (40_field R120): the bits 14 down to 8 are cleared in turn. -/
def reduce11B (v : BitVec 16) : Byte :=
  ((List.range 7).foldl
    (fun acc i => if acc.getLsbD (14 - i) then acc ^^^ (0x11B#16 <<< (6 - i)) else acc) v).setWidth 8

/-- Multiplication in the field of 40_field R120: "the carry-less product of a and b reduced modulo 0x11B" (R132). -/
def fieldProduct (a b : Byte) : Byte := reduce11B (carrylessProduct a b)

/-! ### Polynomials without the engine's loops -/

/-- The field sum of a list. -/
def fieldSum : List Byte → Byte
  | [] => 0#8
  | c :: cs => c ^^^ fieldSum cs

/-- x to the power k. -/
def fieldPow (x : Byte) : Nat → Byte
  | 0 => 1#8
  | k + 1 => gfMul (fieldPow x k) x

/-- `Σ coefficient_k · x^k` (41_polynomial R143). -/
def powerSum (c : List Byte) (x : Byte) : Byte :=
  fieldSum ((List.range c.length).map fun k => gfMul (c.getD k 0#8) (fieldPow x k))

/-- Horner's evaluation (41_polynomial R147): from the last coefficient down, acc = (acc ⊗ x) ⊕ c[k]. -/
def horner : List Byte → Byte → Byte
  | [], _ => 0#8
  | c :: cs, x => gfAdd (gfMul (horner cs x) x) c

/-- `⊕ over j + k = m of (a[k] ⊗ b[j])` (41_polynomial R142). -/
def convolution (a b : List Byte) (m : Nat) : Byte :=
  fieldSum ((List.range (m + 1)).map fun k => gfMul (a.getD k 0#8) (b.getD (m - k) 0#8))

/-- The polynomial in PR[0..PR_LEN - 1] (10_state R44). -/
def State.polyR (s : State) : List Byte := s.bytesFrom (Buf.pr 0).offset s.prLen.toNat

/-- The bytes OUT[0..OUT_LEN - 1] (10_state R43). -/
def State.outBytes (s : State) : List Byte := s.bytesFrom (Buf.out 0).offset s.outLen.toNat

/-! ### Reset -/

/-- The reset values of 70_reset R240 that are observable: every register, SLEN entry and output, and nothing held. The buffers'
bytes are free (R241, log 4). -/
structure State.HasResetValues (s : State) : Prop where
  ie : s.ie = false
  busy : s.busy = false
  done : s.done = false
  ovr : s.ovr = false
  matValid : s.matValid = false
  err : s.err = .ok
  cmd : s.cmd = 0
  result : s.result = 0#8
  secretLen : s.secretLen = 0#16
  nshares : s.nshares = 0#16
  paLen : s.paLen = 0#16
  pbLen : s.pbLen = 0#16
  prLen : s.prLen = 0#16
  outLen : s.outLen = 0#16
  matN : s.matN = 0#16
  matT : s.matT = 0#8
  held : s.held = []
  slen : ∀ i, s.slenAt i = 0#16
  irq : s.irq = false
  rngReady : s.rngReady = false
  statusWord : s.statusWord = 0

/-! ### The invariant -/

/-- What holds of every reachable state: the four clauses of 10_state R50, the clause behind 60_exceptions R217 (DONE = 1 means
BUSY = 0), the configuration's legal range (00_scope R5), and the canonical form of the model's lists: strictly rising keys that
name existing words, SLEN without zero entries, and a live material that is fully written. -/
structure State.Inv (s : State) : Prop where
  cfgLegal : s.cfg.legal
  matRange : s.matValid = true → s.matN.toNat ≤ s.cfg.nmax ∧ 1 ≤ s.matT.toNat ∧ s.matT.toNat ≤ 255
  prLenRange : s.prLen.toNat ≤ s.cfg.pcap
  outLenRange : s.outLen.toNat ≤ s.cfg.nmax + 1
  idleHoldsNothing : s.busy = false → s.held = []
  doneMeansIdle : s.done = true → s.busy = false
  memCanonical : Memory.wf s.mem
  memMapped : ∀ c ∈ s.mem, ∃ b : Buf, b.inRange s.cfg = true ∧ b.offset = c.1
  slenCanonical : Cells.wf s.slen
  slenMapped : ∀ c ∈ s.slen, c.1 < s.cfg.kmax ∧ c.2 ≠ 0#16
  coefCanonical : Memory.wf s.coef
  materialWritten : s.matValid = true →
    ∀ p k, p < s.matN.toNat → k < s.matT.toNat → (Cells.find s.coef (coefKey p k)).isSome = true

/-- A step that does not stop. -/
abbrev State.Runs (s : State) : Prop := ∃ t, step s = .next t

end Sys2Proof.Machine
end

