-- ==== Sys2Proof/Certificates/Slice0/Obligations.lean ====
section
/-! DEFINITION. The statements for the provers. A successful command's next state is written as the state before with the fields
it changes, ERR = OK, DONE = 1, BUSY = 0 and nothing held (44_control R202): every field not named is unchanged. -/

open Sys2Proof Sys2Proof.Machine

/-! ### Encoding -/

/-- 30_encoding R92, R94, R97: no operand bit is lost. -/
def Obligations.DecodeOfEncodeIsTheCommand : Prop :=
  ∀ i : Instr, i.wellFormed → decode (encode i) = .instr i

/-- 30_encoding R94, R97: every word has at most one reading, and that command's encoding is the word. -/
def Obligations.EncodeOfDecodeIsTheWord : Prop :=
  ∀ (w : Word) (i : Instr), decode w = .instr i → encode i = w

/-- 30_encoding R93: the decoder and the match and mask table agree, and no word selects two rows. -/
def Obligations.OpcodeMapSelectsWhatDecodes : Prop :=
  (∀ (w : Word), ∀ r ∈ opcodeMap,
    (r.selects w = true ↔ ∃ i, decode w = .instr i ∧ i.toAsm.mnemonic = r.mnemonic)) ∧
  (∀ (w : Word), ∀ r ∈ opcodeMap, ∀ r' ∈ opcodeMap, r.selects w = true → r'.selects w = true → r = r')

/-- 30_encoding R97: what an assembler refuses, and the word of every command as a number. -/
def Obligations.AssemblerRefusesAndEncodesByTheTable : Prop :=
  (∀ (m : Mnemonic) (a : Nat), m.format = .b1 → 256 ≤ a → (AsmLine.mk m (.one a)).instr = none) ∧
  (∀ (m : Mnemonic) (a b : Nat), m.format = .b2 → (256 ≤ a ∨ 256 ≤ b) → (AsmLine.mk m (.two a b)).instr = none) ∧
  (∀ (m : Mnemonic) (p : Nat), m.format = .x → 65536 ≤ p → (AsmLine.mk m (.one p)).instr = none) ∧
  (∀ (l : AsmLine) (i : Instr), l.instr = some i ↔ i.toAsm = l) ∧
  (∀ a b : Byte,
    (encode .nop).toNat = 0 ∧
    (encode (.gfAdd a b)).toNat = 0x01 * 2 ^ 24 + a.toNat * 2 ^ 16 + b.toNat * 2 ^ 8 ∧
    (encode (.gfSub a b)).toNat = 0x02 * 2 ^ 24 + a.toNat * 2 ^ 16 + b.toNat * 2 ^ 8 ∧
    (encode (.gfMul a b)).toNat = 0x03 * 2 ^ 24 + a.toNat * 2 ^ 16 + b.toNat * 2 ^ 8 ∧
    (encode (.gfDiv a b)).toNat = 0x04 * 2 ^ 24 + a.toNat * 2 ^ 16 + b.toNat * 2 ^ 8 ∧
    (encode .polyAdd).toNat = 0x10 * 2 ^ 24 ∧
    (encode .polyMul).toNat = 0x11 * 2 ^ 24 ∧
    (encode (.polyEval a)).toNat = 0x12 * 2 ^ 24 + a.toNat * 2 ^ 16 ∧
    (encode (.split a)).toNat = 0x20 * 2 ^ 24 + a.toNat * 2 ^ 16 ∧
    (encode (.getShare a)).toNat = 0x21 * 2 ^ 24 + a.toNat * 2 ^ 16 ∧
    (encode (.isValid a)).toNat = 0x22 * 2 ^ 24 + a.toNat * 2 ^ 16 ∧
    (encode (.recover a)).toNat = 0x31 * 2 ^ 24 + a.toNat * 2 ^ 16) ∧
  (∀ p : Half, (encode (.lagrange p)).toNat = 0x30 * 2 ^ 24 + p.toNat)

/-- 30_encoding R91, R92, R93: words written out bit by bit from the formats. -/
def Obligations.WrittenOutWordsDecode : Prop :=
  decode 0b00000000000000000000000000000000#32 = .instr .nop ∧
  decode 0b00000011010101111000001100000000#32 = .instr (.gfMul 0x57 0x83) ∧
  decode 0b00010010000001010000000000000000#32 = .instr (.polyEval 5) ∧
  decode 0b00100000000000110000000000000000#32 = .instr (.split 3) ∧
  decode 0b00110000000000001111111111111111#32 = .instr (.lagrange 65535) ∧
  decode 0b00110001111111110000000000000000#32 = .instr (.recover 255) ∧
  decode 0b00110000000000010000000000000000#32 = .illegal .reservedBits ∧
  decode 0b00000101000000000000000000000000#32 = .illegal .unassignedOpcode

/-- 30_encoding R95: which words are ILLEGAL, that they are accepted, and that they complete with code 10 and nothing else. -/
def Obligations.IllegalWordsCompleteWithCodeTen : Prop :=
  (∀ w : Word, decode w = .illegal .unassignedOpcode ↔
    ((0x05 ≤ w.toNat / 2 ^ 24 ∧ w.toNat / 2 ^ 24 ≤ 0x0F) ∨ (0x13 ≤ w.toNat / 2 ^ 24 ∧ w.toNat / 2 ^ 24 ≤ 0x1F) ∨
      (0x23 ≤ w.toNat / 2 ^ 24 ∧ w.toNat / 2 ^ 24 ≤ 0x2F) ∨ 0x32 ≤ w.toNat / 2 ^ 24)) ∧
  (∀ w : Word, decode w = .illegal .reservedBits ↔
    decode w ≠ .illegal .unassignedOpcode ∧ ∀ r ∈ opcodeMap, r.selects w = false) ∧
  (∀ (w : Word) (s : State), s.busy = false →
    memWrite 0x000014 4 w s = (.writeOk, { s with cmd := w, busy := true, done := false })) ∧
  (∀ (s : State) (why : IllegalWord), s.busy = true → decode s.cmd = .illegal why →
    coreTurn s = .next { s with err := .illegalCommand, done := true, busy := false, held := [] }) ∧
  ErrCode.illegalCommand.code = 10

/-! ### Acceptance, completion, the step -/

/-- 44_control R202, 20_memory R73: the core's turn is exec of the command CMD decodes to, or raises for an ILLEGAL word; and the step after withFetchWord
runs that word's command as if it had just been accepted (log 2). -/
def Obligations.CoreTurnRunsTheDecodedCommand : Prop :=
  (∀ (s : State) (i : Instr), s.busy = true → decode s.cmd = .instr i →
    (s.agenda = [] → step s = exec i s) ∧
    (∀ rest, s.agenda = .core :: rest → step s = exec i { s with agenda := rest })) ∧
  (∀ (s : State) (why : IllegalWord), s.busy = true → decode s.cmd = .illegal why → s.agenda = [] →
    step s = .next { s with err := .illegalCommand, done := true, busy := false, held := [] }) ∧
  (∀ (s : State) (w : Word) (i : Instr), decode w = .instr i →
    step (s.withFetchWord 32 w.toNat) = exec i { s with cmd := w, busy := true, done := false, held := [] })

/-- 44_control R201. -/
def Obligations.AcceptanceLatchesTheWord : Prop :=
  ∀ (s : State) (w : Word),
    (s.busy = false → memWrite 0x000014 4 w s = (.writeOk, { s with cmd := w, busy := true, done := false })) ∧
    (s.busy = true → memWrite 0x000014 4 w s = (.writeOk, { s with ovr := true }))

/-- 60_exceptions R227: an idle core changes nothing on its own. -/
def Obligations.IdleCoreChangesNothing : Prop :=
  ∀ s : State, s.busy = false →
    (s.agenda = [] → step s = .next s) ∧
    (∀ rest, s.agenda = .core :: rest → step s = .next { s with agenda := rest })

/-- 20_memory R73, 70_reset R240: a host access, an offered byte and a reset by the rst input each act alone, in agenda order;
inside the window the bus answer is MemRead's or MemWrite's. That a reset leaves offers and answers is the model's choice
(log 13). -/
def Obligations.EventsActOneAtATime : Prop :=
  (∀ (s : State) (rest : List Event) (off w : Nat) (v : Word), off < 0x1000000 →
    (s.agenda = .read (s.cfg.base + off) w :: rest →
      ∃ t, step s = .next t ∧ t.agenda = rest ∧
        t = { (memRead off w { s with agenda := rest }).2 with
              answers := (memRead off w { s with agenda := rest }).1 :: s.answers }) ∧
    (s.agenda = .write (s.cfg.base + off) w v :: rest →
      ∃ t, step s = .next t ∧ t.agenda = rest ∧
        t = { (memWrite off w v { s with agenda := rest }).2 with
              answers := (memWrite off w v { s with agenda := rest }).1 :: s.answers })) ∧
  (∀ (s : State) (rest : List Event),
    (∀ b, s.agenda = .offer b :: rest → step s = .next { s with offers := s.offers ++ [b], agenda := rest }) ∧
    (s.agenda = .rst :: rest → ∃ t, step s = .next t ∧ t.HasResetValues ∧ t.agenda = rest ∧ t.cfg = s.cfg ∧
      t.offers = s.offers ∧ t.answers = s.answers))

/-- 60_exceptions R210: no error, no command and no host access stops the core. -/
def Obligations.NoStepStops : Prop :=
  ∀ s : State, ∃ t, step s = .next t

/-- 44_control R202, 60_exceptions R212: a command that fails changes nothing but the completion fields. -/
def Obligations.FailedCommandChangesOnlyStatus : Prop :=
  ∀ (i : Instr) (s t : State), s.busy = true → exec i s = .next t → t.busy = false → t.err ≠ .ok →
    t = { s with err := t.err, done := true, busy := false, held := [] }

/-- 10_state R29, R41, R42, R44, R49, 44_control R202: what no command writes. -/
def Obligations.NoCommandWritesWhatTheHostOwns : Prop :=
  ∀ (i : Instr) (s t : State), s.Inv → exec i s = .next t →
    (t.ie = s.ie ∧ t.ovr = s.ovr ∧ t.cmd = s.cmd ∧ t.secretLen = s.secretLen ∧ t.nshares = s.nshares ∧
      t.paLen = s.paLen ∧ t.pbLen = s.pbLen ∧ t.slen = s.slen ∧ t.cfg = s.cfg ∧ t.agenda = s.agenda ∧
      t.answers = s.answers ∧ t.bufEpoch = s.bufEpoch ∧ t.busyReads = s.busyReads) ∧
    (∀ b : Buf, b.inRange s.cfg = true → b.hostWritable = true → t.byteAt b.offset = s.byteAt b.offset)

/-- 10_state R31, R46, R51: the material changes only when a SPLIT succeeds, all together, or at a reset, which invalidates
it. -/
def Obligations.MaterialChangesOnlyBySplitOrReset : Prop :=
  ∀ s t : State, step s = .next t →
    (t.coef = s.coef ∧ t.coefEpoch = s.coefEpoch ∧ t.matN = s.matN ∧ t.matT = s.matT ∧ t.matValid = s.matValid) ∨
    (∃ T, s.busy = true ∧ decode s.cmd = .instr (.split T) ∧ (s.agenda = [] ∨ s.agenda.head? = some .core) ∧
      t.busy = false ∧ t.err = .ok ∧ t.matValid = true ∧ t.matN = s.secretLen ∧ t.matT = T) ∨
    ((s.agenda.head? = some .rst ∨
        ∃ v : Word, v.getLsbD 1 = true ∧ s.agenda.head? = some (.write (s.cfg.base + 0x00000C) 4 v)) ∧
      t.matValid = false ∧ t.matN = 0 ∧ t.matT = 0)

/-- 44_control R204, 70_reset R252: with nothing else to come, and with bytes enough for a SPLIT, the command in flight
completes at the next step. -/
def Obligations.CommandInFlightCompletes : Prop :=
  ∀ s : State, s.busy = true → s.agenda = [] →
    (∀ T, decode s.cmd = .instr (.split T) → T ≠ 0#8 → s.secretLen.toNat ≤ s.cfg.nmax →
      s.secretLen.toNat * (T.toNat - 1) ≤ s.held.length + s.offers.length) →
    ∃ t, step s = .next t ∧ t.busy = false ∧ t.done = true ∧ t.held = []

/-- 60_exceptions R211: the codes, and which commands raise them. -/
def Obligations.CompletionCodesAreTheTable : Prop :=
  (ErrCode.ok.code = 0 ∧ ErrCode.invalidShareId.code = 1 ∧ ErrCode.insufficientShares.code = 2 ∧
    ErrCode.duplicateShareId.code = 3 ∧ ErrCode.mismatchedShareLength.code = 4 ∧ ErrCode.divisionByZero.code = 5 ∧
    ErrCode.invalidThreshold.code = 6 ∧ ErrCode.noMaterial.code = 7 ∧ ErrCode.emptyShare.code = 8 ∧
    ErrCode.operandRange.code = 9 ∧ ErrCode.illegalCommand.code = 10) ∧
  (∀ e : ErrCode, e.code.toNat ≤ 10) ∧
  (∀ (i : Instr) (s t : State), s.busy = true → exec i s = .next t → t.busy = false →
    t.err = .ok ∨ t.err ∈
      (match i with
        | .nop | .gfAdd _ _ | .gfSub _ _ | .gfMul _ _ => ([] : List ErrCode)
        | .gfDiv _ _ => [.divisionByZero]
        | .polyAdd | .polyMul | .polyEval _ => [.operandRange]
        | .split _ => [.invalidThreshold, .operandRange]
        | .getShare _ => [.invalidShareId, .noMaterial]
        | .isValid _ => [.operandRange, .noMaterial]
        | .lagrange _ => [.operandRange, .divisionByZero]
        | .recover _ => [.operandRange, .insufficientShares, .emptyShare, .duplicateShareId, .mismatchedShareLength])) ∧
  (∀ (s : State) (why : IllegalWord), s.busy = true → decode s.cmd = .illegal why →
    ∃ t, coreTurn s = .next t ∧ t.err = .illegalCommand)

/-! ### The invariant -/

/-- 10_state R50, 70_reset R240. -/
def Obligations.ResetMeetsTheInvariant : Prop := State.reset.Inv

/-- 10_state R50, 60_exceptions R217: every step keeps the invariant, from every state that has it. -/
def Obligations.StepKeepsTheInvariant : Prop :=
  ∀ s t : State, s.Inv → step s = .next t → t.Inv

/-- 60_exceptions R216, R217: irq is high only when the command is complete; every completion raises it when IE = 1. -/
def Obligations.InterruptMeansCompletion : Prop :=
  (∀ s : State, s.Inv → s.irq = true → s.busy = false ∧ s.done = true ∧ s.ie = true) ∧
  (∀ (i : Instr) (s t : State), s.busy = true → exec i s = .next t → t.busy = false → t.irq = s.ie)

/-! ### NOP and the field unit -/

/-- 44_control R200. -/
def Obligations.NopOnlyCompletes : Prop :=
  (∀ s : State, exec .nop s = .next { s with err := .ok, done := true, busy := false, held := [] }) ∧
  decode 0x00000000 = .instr .nop ∧
  (∀ w : Word, w.toNat / 2 ^ 24 = 0 → w.toNat % 2 ^ 24 ≠ 0 → decode w = .illegal .reservedBits) ∧
  (∀ s t : State, s.matValid = false → s.ovr = false → exec .nop s = .next t → t.statusWord = 0x00000002)

/-- 40_field R124, R125: addition and subtraction are XOR and never fail. -/
def Obligations.GfAddAndSubAreXor : Prop :=
  ∀ (a b : Byte) (s : State),
    gfAdd a b = a ^^^ b ∧ gfSub a b = a ^^^ b ∧
    exec (.gfAdd a b) s =
      .next { s with result := a ^^^ b, err := .ok, done := true, busy := false, held := [] } ∧
    exec (.gfSub a b) s =
      .next { s with result := a ^^^ b, err := .ok, done := true, busy := false, held := [] }

/-- 40_field R120, R130, R132: GF_MUL is the product of the field of R120, whatever the ROMs say. -/
def Obligations.GfMulIsTheFieldProduct : Prop :=
  ∀ (a b : Byte) (s : State),
    exec (.gfMul a b) s =
      .next { s with result := fieldProduct a b, err := .ok, done := true, busy := false, held := [] }

/-- 40_field R127, R131, R132: GF_DIV undoes the product; the dividend 0 is tested before the divisor 0. -/
def Obligations.GfDivUndoesTheProduct : Prop :=
  ∀ (a b : Byte) (s : State),
    (b ≠ 0#8 → ∃ q, fieldProduct q b = a ∧
      exec (.gfDiv a b) s = .next { s with result := q, err := .ok, done := true, busy := false, held := [] }) ∧
    (a = 0#8 → exec (.gfDiv a b) s =
      .next { s with result := 0#8, err := .ok, done := true, busy := false, held := [] }) ∧
    (a ≠ 0#8 → b = 0#8 → exec (.gfDiv a b) s =
      .next { s with err := .divisionByZero, done := true, busy := false, held := [] })

/-- 40_field R126, R127, R132: the ROM formulas, with exponents in 0..254, and the laws, for all bytes. -/
def Obligations.FieldLawsHold : Prop :=
  (∀ a b : Byte, a ≠ 0#8 → b ≠ 0#8 →
    gfMul a b = expRom ((logRom a + logRom b) % 255) ∧
    ∃ e : Nat, e < 255 ∧ (e : Int) = ((logRom a : Int) - (logRom b : Int)) % 255 ∧ gfDiv a b = some (expRom e)) ∧
  (∀ a b c : Byte, gfAdd a b = gfAdd b a ∧ gfAdd (gfAdd a b) c = gfAdd a (gfAdd b c) ∧ gfAdd a 0 = a ∧ gfAdd a a = 0#8) ∧
  (∀ a b : Byte, gfMul a b = fieldProduct a b) ∧
  (∀ a b c : Byte, gfMul a b = gfMul b a ∧ gfMul (gfMul a b) c = gfMul a (gfMul b c) ∧
    gfMul a (gfAdd b c) = gfAdd (gfMul a b) (gfMul a c) ∧ gfMul a 1#8 = a ∧ gfMul a 0#8 = 0#8) ∧
  (∀ a b : Byte, b ≠ 0#8 → ∃ q r, gfDiv a b = some q ∧ gfDiv 1#8 b = some r ∧ gfMul q b = a ∧ q = gfMul a r) ∧
  (∀ a : Byte, a ≠ 0#8 → gfDiv a 0#8 = none) ∧
  (∀ b : Byte, gfDiv 0#8 b = some 0#8)

/-- 40_field R121, R122: the EXP ROM holds the powers of 3 and follows its recurrence, EXP[255] = 1, LOG inverts EXP and stays
below 255, LOG[0] = LOG[1] = 0. -/
def Obligations.RomsFollowTheirRecurrence : Prop :=
  expRom 0 = 0x01#8 ∧
  (∀ i, i < 255 → expRom (i + 1) =
    ((if ((expRom i).setWidth 9 <<< 1).getLsbD 8 then ((expRom i).setWidth 9 <<< 1) ^^^ 0x11B#9
      else (expRom i).setWidth 9 <<< 1) ^^^ (expRom i).setWidth 9).setWidth 8) ∧
  (∀ i, i ≤ 254 → expRom i = fieldPow 3#8 i) ∧
  expRom 255 = 0x01#8 ∧
  (∀ i, i ≤ 254 → logRom (expRom i) = i) ∧
  (∀ a : Byte, a ≠ 0#8 → logRom a ≤ 254) ∧
  logRom 0#8 = 0 ∧ logRom 1#8 = 0

/-! ### The polynomial engine -/

/-- 41_polynomial R144, R149: lane k of PR is PA[k] ⊕ PB[k], an operand reading 0 beyond its length; every lane beyond the
longer operand, and every other buffer word, is unchanged. -/
def Obligations.PolyAddAddsLaneByLane : Prop :=
  ∀ s : State,
    (s.paLen.toNat ≤ s.cfg.pcap → s.pbLen.toNat ≤ s.cfg.pcap →
      ∃ t, exec .polyAdd s = .next t ∧
        t = { s with mem := t.mem, prLen := t.prLen, err := .ok, done := true, busy := false, held := [] } ∧
        t.prLen.toNat = max s.paLen.toNat s.pbLen.toNat ∧
        (∀ k, k < t.prLen.toNat → t.byteAt (Buf.pr k).offset =
          (if k < s.paLen.toNat then s.byteAt (Buf.pa k).offset else 0#8) ^^^
          (if k < s.pbLen.toNat then s.byteAt (Buf.pb k).offset else 0#8)) ∧
        (∀ off, (∀ k, k < t.prLen.toNat → off ≠ (Buf.pr k).offset) → t.byteAt off = s.byteAt off)) ∧
    (s.cfg.pcap < s.paLen.toNat ∨ s.cfg.pcap < s.pbLen.toNat →
      exec .polyAdd s = .next { s with err := .operandRange, done := true, busy := false, held := [] })

/-- 41_polynomial R142, R145: PR[m] is the sum of PA[k] ⊗ PB[j] over j + k = m, of length PA_LEN + PB_LEN - 1, or empty when an
operand is empty; nothing else is written. -/
def Obligations.PolyMulConvolves : Prop :=
  ∀ s : State, s.cfg.legal →
    (s.paLen.toNat ≤ s.cfg.pcap → s.pbLen.toNat ≤ s.cfg.pcap →
      (s.paLen = 0#16 ∨ s.pbLen = 0#16 ∨ s.paLen.toNat + s.pbLen.toNat - 1 ≤ s.cfg.pcap) →
      ∃ t, exec .polyMul s = .next t ∧
        t = { s with mem := t.mem, prLen := t.prLen, err := .ok, done := true, busy := false, held := [] } ∧
        t.prLen.toNat = (if s.paLen = 0#16 ∨ s.pbLen = 0#16 then 0 else s.paLen.toNat + s.pbLen.toNat - 1) ∧
        (∀ m, m < t.prLen.toNat → t.byteAt (Buf.pr m).offset = convolution s.polyA s.polyB m) ∧
        (∀ off, (∀ k, k < t.prLen.toNat → off ≠ (Buf.pr k).offset) → t.byteAt off = s.byteAt off)) ∧
    (s.cfg.pcap < s.paLen.toNat ∨ s.cfg.pcap < s.pbLen.toNat ∨
        (s.paLen ≠ 0#16 ∧ s.pbLen ≠ 0#16 ∧ s.cfg.pcap < s.paLen.toNat + s.pbLen.toNat - 1) →
      exec .polyMul s = .next { s with err := .operandRange, done := true, busy := false, held := [] })

/-- 41_polynomial R143, R146: RESULT is Σ PA[k] · x^k. -/
def Obligations.PolyEvalSumsThePowers : Prop :=
  ∀ (x : Byte) (s : State),
    (s.paLen.toNat ≤ s.cfg.pcap → exec (.polyEval x) s =
      .next { s with result := powerSum s.polyA x, err := .ok, done := true, busy := false, held := [] }) ∧
    (s.cfg.pcap < s.paLen.toNat → exec (.polyEval x) s =
      .next { s with err := .operandRange, done := true, busy := false, held := [] })

/-- 41_polynomial R147. -/
def Obligations.HornerEqualsPeval : Prop :=
  ∀ (c : List Byte) (x : Byte), horner c x = peval c x

/-- 41_polynomial R148, the five laws. -/
def Obligations.PolynomialLawsHold : Prop :=
  (∀ a b : List Byte, padd a b = padd b a) ∧
  (∀ a b : List Byte, pmul a b = pmul b a) ∧
  (∀ (a b : List Byte) (x : Byte), peval (padd a b) x = gfAdd (peval a x) (peval b x)) ∧
  (∀ (a b : List Byte) (x : Byte), a ≠ [] → b ≠ [] → peval (pmul a b) x = gfMul (peval a x) (peval b x)) ∧
  (∀ (c : List Byte) (n : Nat) (x : Byte), peval (c ++ List.replicate n 0#8) x = peval c x)

/-! ### The splitter -/

/-- 42_splitter R161, R162: a SPLIT with bytes enough. The bytes taken are those held and then those offered, oldest first; byte
number p (T - 1) + (k - 1) becomes COEF[p][k]. -/
def Obligations.SplitBuildsTheMaterial : Prop :=
  ∀ (T : Byte) (s : State), T ≠ 0#8 → s.secretLen.toNat ≤ s.cfg.nmax →
    s.secretLen.toNat * (T.toNat - 1) ≤ s.held.length + s.offers.length →
    ∃ t, exec (.split T) s = .next t ∧
      t = { s with
            coef := t.coef, coefEpoch := t.coefEpoch, matN := s.secretLen, matT := T, matValid := true
            offers := s.offers.drop (s.secretLen.toNat * (T.toNat - 1) - s.held.length)
            err := .ok, done := true, busy := false, held := [] } ∧
      (∀ p, p < s.secretLen.toNat → t.coefAt p 0 = s.byteAt (Buf.secret p).offset) ∧
      (∀ p k, p < s.secretLen.toNat → 1 ≤ k → k < T.toNat →
        (s.held ++ s.offers)[p * (T.toNat - 1) + (k - 1)]? = some (t.coefAt p k))

/-- 42_splitter R161, 10_state R45, R48: the two errors, with no byte taken, and the wait for bytes: everything offered is taken
and held, and the command stays in flight. -/
def Obligations.SplitFailsOrWaits : Prop :=
  ∀ (T : Byte) (s : State),
    (T = 0#8 → exec (.split T) s =
      .next { s with err := .invalidThreshold, done := true, busy := false, held := [] }) ∧
    (T ≠ 0#8 → s.cfg.nmax < s.secretLen.toNat → exec (.split T) s =
      .next { s with err := .operandRange, done := true, busy := false, held := [] }) ∧
    (T ≠ 0#8 → s.secretLen.toNat ≤ s.cfg.nmax →
      s.held.length + s.offers.length < s.secretLen.toNat * (T.toNat - 1) → exec (.split T) s =
        .next { s with held := s.held ++ s.offers, offers := [] })

/-- 42_splitter R163: GET_SHARE. -/
def Obligations.GetShareWritesTheShare : Prop :=
  ∀ (id : Byte) (s : State),
    (id ≠ 0#8 → s.matValid = true → s.matN.toNat < 65535 →
      ∃ t, exec (.getShare id) s = .next t ∧
        t = { s with mem := t.mem, outLen := t.outLen, err := .ok, done := true, busy := false, held := [] } ∧
        t.outLen.toNat = s.matN.toNat + 1 ∧
        t.byteAt (Buf.out 0).offset = id ∧
        (∀ p, p < s.matN.toNat → t.byteAt (Buf.out (p + 1)).offset =
          powerSum ((List.range s.matT.toNat).map fun k => s.coefAt p k) id) ∧
        (∀ off, (∀ b, b ≤ s.matN.toNat → off ≠ (Buf.out b).offset) → t.byteAt off = s.byteAt off)) ∧
    (id = 0#8 → exec (.getShare id) s =
      .next { s with err := .invalidShareId, done := true, busy := false, held := [] }) ∧
    (id ≠ 0#8 → s.matValid = false → exec (.getShare id) s =
      .next { s with err := .noMaterial, done := true, busy := false, held := [] })

/-- 42_splitter R166: in any two states with the same material the same id gives the same bytes; GET_SHARE 0 always fails.
That the material stays the same in between is MaterialChangesOnlyBySplitOrReset. -/
def Obligations.GetShareIsDeterministic : Prop :=
  (∀ (id : Byte) (s s' : State), s.matValid = true → s'.matValid = true → s'.matN = s.matN → s'.matT = s.matT →
    (∀ p k, p < s.matN.toNat → k < s.matT.toNat → s'.coefAt p k = s.coefAt p k) → id ≠ 0#8 →
    ∃ t t', exec (.getShare id) s = .next t ∧ exec (.getShare id) s' = .next t' ∧ t.err = .ok ∧ t'.err = .ok ∧
      t'.outLen = t.outLen ∧
      ∀ b, b ≤ s.matN.toNat → t'.byteAt (Buf.out b).offset = t.byteAt (Buf.out b).offset) ∧
  (∀ s : State, ∃ t, exec (.getShare 0#8) s = .next t ∧ t.err = .invalidShareId)

/-- 42_splitter R164: SPLIT 1 succeeds, also on an empty secret, and every share then carries the secret's bytes. -/
def Obligations.ThresholdOneSharesTheSecret : Prop :=
  ∀ (s : State), s.cfg.legal → s.secretLen.toNat ≤ s.cfg.nmax →
    ∃ t, exec (.split 1#8) s = .next t ∧ t.err = .ok ∧ t.matValid = true ∧ t.offers = s.offers ∧
      ∀ id : Byte, id ≠ 0#8 → ∃ u, exec (.getShare id) t = .next u ∧ u.err = .ok ∧
        u.outLen.toNat = s.secretLen.toNat + 1 ∧ u.byteAt (Buf.out 0).offset = id ∧
        ∀ p, p < s.secretLen.toNat → u.byteAt (Buf.out (p + 1)).offset = s.byteAt (Buf.secret p).offset

/-- 42_splitter R165: IS_VALID. -/
def Obligations.IsValidComparesTheShare : Prop :=
  ∀ (slot : Byte) (s : State),
    (slot.toNat < s.cfg.kmax → (s.slenAt slot.toNat).toNat ≤ s.cfg.nmax + 1 → s.matValid = true →
      (((s.slenAt slot.toNat).toNat = s.matN.toNat + 1 ∧ s.byteAt (Buf.share slot.toNat 0).offset ≠ 0#8 ∧
          ∀ p, p < s.matN.toNat → s.byteAt (Buf.share slot.toNat (p + 1)).offset =
            powerSum ((List.range s.matT.toNat).map fun k => s.coefAt p k) (s.byteAt (Buf.share slot.toNat 0).offset)) →
        exec (.isValid slot) s =
          .next { s with result := 0x01#8, err := .ok, done := true, busy := false, held := [] }) ∧
      (¬ ((s.slenAt slot.toNat).toNat = s.matN.toNat + 1 ∧ s.byteAt (Buf.share slot.toNat 0).offset ≠ 0#8 ∧
          ∀ p, p < s.matN.toNat → s.byteAt (Buf.share slot.toNat (p + 1)).offset =
            powerSum ((List.range s.matT.toNat).map fun k => s.coefAt p k) (s.byteAt (Buf.share slot.toNat 0).offset)) →
        exec (.isValid slot) s =
          .next { s with result := 0x00#8, err := .ok, done := true, busy := false, held := [] })) ∧
    (s.cfg.kmax ≤ slot.toNat → exec (.isValid slot) s =
      .next { s with err := .operandRange, done := true, busy := false, held := [] }) ∧
    (slot.toNat < s.cfg.kmax → s.cfg.nmax + 1 < (s.slenAt slot.toNat).toNat → exec (.isValid slot) s =
      .next { s with err := .operandRange, done := true, busy := false, held := [] }) ∧
    (slot.toNat < s.cfg.kmax → (s.slenAt slot.toNat).toNat ≤ s.cfg.nmax + 1 → s.matValid = false →
      exec (.isValid slot) s = .next { s with err := .noMaterial, done := true, busy := false, held := [] })

/-! ### The Lagrange core and the recoverer -/

/-- 43_recoverer R182, R183: with distinct ids LAGRANGE leaves in PR a polynomial of length k through all k points, and its
constant term in RESULT; nothing else is written. -/
def Obligations.LagrangeInterpolatesThePoints : Prop :=
  ∀ (p : Half) (s : State), s.nshares.toNat ≤ s.cfg.kmax →
    (∀ i, i < s.nshares.toNat → (s.slenAt i).toNat ≤ s.cfg.nmax + 1 ∧ p.toNat < (s.slenAt i).toNat) →
    (∀ i j, i < j → j < s.nshares.toNat → s.byteAt (Buf.share i 0).offset ≠ s.byteAt (Buf.share j 0).offset) →
    ∃ t, exec (.lagrange p) s = .next t ∧
      t = { s with
            mem := t.mem, prLen := s.nshares, result := t.result
            err := .ok, done := true, busy := false, held := [] } ∧
      (∀ i, i < s.nshares.toNat →
        powerSum t.polyR (s.byteAt (Buf.share i 0).offset) = s.byteAt (Buf.share i p.toNat).offset) ∧
      t.result = (if 1 ≤ s.nshares.toNat then t.byteAt (Buf.pr 0).offset else 0#8) ∧
      (∀ off, (∀ m, m < s.nshares.toNat → off ≠ (Buf.pr m).offset) → t.byteAt off = s.byteAt off)

/-- 43_recoverer R181, R183, 60_exceptions R213: the failures of LAGRANGE, in order. -/
def Obligations.LagrangeFailsInOrder : Prop :=
  ∀ (p : Half) (s : State),
    (s.cfg.kmax < s.nshares.toNat → exec (.lagrange p) s =
      .next { s with err := .operandRange, done := true, busy := false, held := [] }) ∧
    (s.nshares.toNat ≤ s.cfg.kmax →
      (∃ i, i < s.nshares.toNat ∧ (s.cfg.nmax + 1 < (s.slenAt i).toNat ∨ (s.slenAt i).toNat ≤ p.toNat)) →
      exec (.lagrange p) s =
        .next { s with err := .operandRange, done := true, busy := false, held := [] }) ∧
    (s.nshares.toNat ≤ s.cfg.kmax →
      (∀ i, i < s.nshares.toNat → (s.slenAt i).toNat ≤ s.cfg.nmax + 1 ∧ p.toNat < (s.slenAt i).toNat) →
      (∃ i j, i < j ∧ j < s.nshares.toNat ∧ s.byteAt (Buf.share i 0).offset = s.byteAt (Buf.share j 0).offset) →
      exec (.lagrange p) s =
        .next { s with err := .divisionByZero, done := true, busy := false, held := [] })

/-- 43_recoverer R182, R184: with valid slots RECOVER leaves in OUT[p-1], for each payload position p, the constant term of the
polynomial of length k through the k points of that position; nothing else is written. -/
def Obligations.RecoverReturnsTheConstantTerms : Prop :=
  ∀ (T : Byte) (s : State), s.nshares.toNat ≤ s.cfg.kmax → s.nshares.toNat ≠ 0 →
    T.toNat ≤ s.nshares.toNat →
    (∀ i, i < s.nshares.toNat → s.slenAt i = s.slenAt 0) →
    (s.slenAt 0).toNat ≤ s.cfg.nmax + 1 → s.slenAt 0 ≠ 0#16 →
    (∀ i j, i < j → j < s.nshares.toNat → s.byteAt (Buf.share i 0).offset ≠ s.byteAt (Buf.share j 0).offset) →
    ∃ t, exec (.recover T) s = .next t ∧
      t = { s with mem := t.mem, outLen := t.outLen, err := .ok, done := true, busy := false, held := [] } ∧
      t.outLen.toNat = (s.slenAt 0).toNat - 1 ∧
      (∀ p, 1 ≤ p → p < (s.slenAt 0).toNat → ∃ r : List Byte, r.length = s.nshares.toNat ∧
        (∀ i, i < s.nshares.toNat →
          powerSum r (s.byteAt (Buf.share i 0).offset) = s.byteAt (Buf.share i p).offset) ∧
        r[0]? = some (t.byteAt (Buf.out (p - 1)).offset)) ∧
      (∀ off, (∀ b, b < (s.slenAt 0).toNat - 1 → off ≠ (Buf.out b).offset) → t.byteAt off = s.byteAt off)

/-- 43_recoverer R184, 60_exceptions R213: the failures of RECOVER, in order. -/
def Obligations.RecoverFailsInOrder : Prop :=
  ∀ (T : Byte) (s : State),
    (s.cfg.kmax < s.nshares.toNat → exec (.recover T) s =
      .next { s with err := .operandRange, done := true, busy := false, held := [] }) ∧
    (s.nshares.toNat ≤ s.cfg.kmax → s.nshares.toNat = 0 ∨ s.nshares.toNat < T.toNat → exec (.recover T) s =
      .next { s with err := .insufficientShares, done := true, busy := false, held := [] }) ∧
    (s.nshares.toNat ≤ s.cfg.kmax → s.nshares.toNat ≠ 0 → T.toNat ≤ s.nshares.toNat →
      ((∃ i, i < s.nshares.toNat ∧ s.cfg.nmax + 1 < (s.slenAt i).toNat) → exec (.recover T) s =
        .next { s with err := .operandRange, done := true, busy := false, held := [] }) ∧
      ((∀ i, i < s.nshares.toNat → (s.slenAt i).toNat ≤ s.cfg.nmax + 1) →
        ((∃ i, i < s.nshares.toNat ∧ s.slenAt i = 0#16) → exec (.recover T) s =
          .next { s with err := .emptyShare, done := true, busy := false, held := [] }) ∧
        ((∀ i, i < s.nshares.toNat → s.slenAt i ≠ 0#16) →
          ((∃ i j, i < j ∧ j < s.nshares.toNat ∧
              s.byteAt (Buf.share i 0).offset = s.byteAt (Buf.share j 0).offset) → exec (.recover T) s =
            .next { s with err := .duplicateShareId, done := true, busy := false, held := [] }) ∧
          ((∀ i j, i < j → j < s.nshares.toNat →
              s.byteAt (Buf.share i 0).offset ≠ s.byteAt (Buf.share j 0).offset) →
            (∃ i, i < s.nshares.toNat ∧ s.slenAt i ≠ s.slenAt 0) → exec (.recover T) s =
            .next { s with err := .mismatchedShareLength, done := true, busy := false, held := [] }))))

/-- 43_recoverer R185. -/
def Obligations.RecoverNeverDividesByZero : Prop :=
  ∀ (T : Byte) (s t : State), exec (.recover T) s = .next t → t.err ≠ .divisionByZero

/-- 43_recoverer R188: SPLIT T, then GET_SHARE for k distinct ids with T ≤ k ≤ KMAX, the shares loaded into slots 0..k-1 in any
state of the same configuration, then RECOVER T: the secret comes back, whatever the random bytes were. -/
def Obligations.RecoverReturnsTheSplitSecret : Prop :=
  ∀ (T : Byte) (ids : List Byte) (s0 s1 s2 : State), s0.cfg.legal → T ≠ 0#8 → s0.secretLen.toNat ≤ s0.cfg.nmax →
    s0.secretLen.toNat * (T.toNat - 1) ≤ s0.held.length + s0.offers.length →
    exec (.split T) s0 = .next s1 →
    ids.Nodup → 0#8 ∉ ids → T.toNat ≤ ids.length → ids.length ≤ s0.cfg.kmax →
    s2.cfg = s0.cfg → s2.nshares.toNat = ids.length →
    (∀ i id, ids[i]? = some id → (s2.slenAt i).toNat = s0.secretLen.toNat + 1 ∧
      ∃ u, exec (.getShare id) s1 = .next u ∧
        ∀ b, b ≤ s0.secretLen.toNat → s2.byteAt (Buf.share i b).offset = u.byteAt (Buf.out b).offset) →
    ∃ t, exec (.recover T) s2 = .next t ∧ t.err = .ok ∧ t.outLen = s0.secretLen ∧
      ∀ p, p < s0.secretLen.toNat → t.byteAt (Buf.out p).offset = s0.byteAt (Buf.secret p).offset

/-- 43_recoverer R189: two states that hold the same shares in another slot order. -/
def Obligations.InterpolationIgnoresSlotOrder : Prop :=
  ∀ (s s' : State) (k : Nat) (σ : Equiv.Perm (Fin k)), s.nshares.toNat = k → s'.nshares = s.nshares → s'.cfg = s.cfg →
    (∀ i : Fin k, s'.slenAt i = s.slenAt (σ i)) →
    (∀ (i : Fin k) (b : Nat), b ≤ s.cfg.nmax →
      s'.byteAt (Buf.share i b).offset = s.byteAt (Buf.share (σ i) b).offset) →
    (∀ (T : Byte) (t : State), exec (.recover T) s = .next t → t.err = .ok →
      ∃ t', exec (.recover T) s' = .next t' ∧ t'.err = .ok ∧ t'.outLen = t.outLen ∧
        ∀ b, b < t.outLen.toNat → t'.byteAt (Buf.out b).offset = t.byteAt (Buf.out b).offset) ∧
    (∀ (p : Half) (t : State), exec (.lagrange p) s = .next t → t.err = .ok →
      ∃ t', exec (.lagrange p) s' = .next t' ∧ t'.err = .ok ∧ t'.result = t.result ∧ t'.prLen = t.prLen ∧
        ∀ m, m < t.prLen.toNat → t'.byteAt (Buf.pr m).offset = t.byteAt (Buf.pr m).offset)

/-! ### The host window -/

/-- 20_memory R61: the window map, and that every other offset is unmapped. -/
def Obligations.WindowMapIsTheTable : Prop :=
  ∀ c : Config, c.legal →
    (∀ (r : Reg) (n : Nat), regMap[n]? = some r ↔ (n, r) ∈ [(0, Reg.id), (1, Reg.param0), (2, Reg.param1), (3, Reg.ctrl),
      (4, Reg.status), (5, Reg.cmd), (6, Reg.result), (7, Reg.secretLen), (8, Reg.nshares), (9, Reg.paLen),
      (10, Reg.pbLen), (11, Reg.prLen), (12, Reg.outLen), (13, Reg.matInfo)]) ∧
    (∀ off, off % 4 = 0 →
      (∀ r, locate c off = some (.reg r) ↔ regMap[off / 4]? = some r) ∧
      (∀ i, locate c off = some (.slen i) ↔ i < c.kmax ∧ off = 0x001000 + 4 * i) ∧
      (∀ b, locate c off = some (.buf b) ↔ b.inRange c = true ∧ off = b.offset))

/-- 20_memory R66, R67: a bus error reads nothing, writes nothing and changes no state, OVR included. -/
def Obligations.BusErrorsChangeNothing : Prop :=
  ∀ (off w : Nat) (v : Word) (s : State), w ≠ 4 ∨ off % 4 ≠ 0 ∨ locate s.cfg off = none →
    memRead off w s = (.busError, s) ∧ memWrite off w v s = (.busError, s)

/-- 20_memory R62: a buffer word stores v[7:0], reads back zero-extended, and no other buffer word changes. -/
def Obligations.BufferWordsHoldOneByte : Prop :=
  ∀ (b : Buf) (v : Word) (s : State), s.cfg.legal → s.busy = false → b.inRange s.cfg = true → b.hostWritable = true →
    ∃ t, memWrite b.offset 4 v s = (.writeOk, t) ∧
      t = { s with mem := t.mem } ∧
      memRead b.offset 4 t = (.readOk ((v.setWidth 8).setWidth 32), t) ∧
      ∀ b' : Buf, b'.inRange s.cfg = true → b' ≠ b →
        memRead b'.offset 4 t = (.readOk ((s.byteAt b'.offset).setWidth 32), t)

/-- 10_state R34, R35, R36, R40: the length registers hold any 16-bit value written; bits [31:16] read 0 and are ignored. -/
def Obligations.LengthRegistersHoldSixteenBits : Prop :=
  ∀ (v : Word) (s : State), s.busy = false →
    (memWrite 0x00001C 4 v s = (.writeOk, { s with secretLen := v.setWidth 16 }) ∧
      memRead 0x00001C 4 s = (.readOk (s.secretLen.setWidth 32), s)) ∧
    (memWrite 0x000020 4 v s = (.writeOk, { s with nshares := v.setWidth 16 }) ∧
      memRead 0x000020 4 s = (.readOk (s.nshares.setWidth 32), s)) ∧
    (memWrite 0x000024 4 v s = (.writeOk, { s with paLen := v.setWidth 16 }) ∧
      memRead 0x000024 4 s = (.readOk (s.paLen.setWidth 32), s)) ∧
    (memWrite 0x000028 4 v s = (.writeOk, { s with pbLen := v.setWidth 16 }) ∧
      memRead 0x000028 4 s = (.readOk (s.pbLen.setWidth 32), s)) ∧
    (∀ i, s.cfg.legal → i < s.cfg.kmax → memRead (0x001000 + 4 * i) 4 s = (.readOk ((s.slenAt i).setWidth 32), s) ∧ ∃ t, memWrite (0x001000 + 4 * i) 4 v s = (.writeOk, t) ∧
      t = { s with slen := t.slen } ∧ t.slenAt i = v.setWidth 16 ∧ (∀ j, j ≠ i → t.slenAt j = s.slenAt j) ∧
      memRead (0x001000 + 4 * i) 4 t = (.readOk ((v.setWidth 16).setWidth 32), t))

/-- 20_memory R68, R71: writes to read-only registers, buffers and fields change nothing, with an OK response; a write to STATUS
clears DONE and OVR by its bits 1 and 2 and one to CTRL without SRST sets IE to its bit 0, whatever BUSY is; reserved bits
read 0. -/
def Obligations.ReadOnlyWordsIgnoreWrites : Prop :=
  ∀ (v : Word) (s : State),
    (s.busy = false →
      (∀ off ∈ [0x000000, 0x000004, 0x000008, 0x000018, 0x00002C, 0x000030, 0x000034],
        memWrite off 4 v s = (.writeOk, s)) ∧
      (s.cfg.legal → ∀ b : Buf, b.inRange s.cfg = true → b.hostWritable = false →
        memWrite b.offset 4 v s = (.writeOk, s))) ∧
    memWrite 0x000010 4 v s =
      (.writeOk, { s with done := s.done && !v.getLsbD 1, ovr := s.ovr && !v.getLsbD 2 }) ∧
    (v.getLsbD 1 = false → memWrite 0x00000C 4 v s = (.writeOk, { s with ie := v.getLsbD 0 })) ∧
    (s.statusWord.toNat < 2 ^ 8 ∧ s.ctrlWord.toNat < 2 ^ 1 ∧ (s.regValue .result).toNat < 2 ^ 8 ∧
      (s.regValue .param1).toNat < 2 ^ 16 ∧ (s.regValue .secretLen).toNat < 2 ^ 16 ∧
      (s.regValue .nshares).toNat < 2 ^ 16 ∧ (s.regValue .paLen).toNat < 2 ^ 16 ∧
      (s.regValue .pbLen).toNat < 2 ^ 16 ∧ (s.regValue .prLen).toNat < 2 ^ 16 ∧
      (s.regValue .outLen).toNat < 2 ^ 16 ∧ (s.regValue .matInfo).toNat < 2 ^ 24)

/-- 10_state R26, R28, R29: the STATUS word, and its write-1-to-clear bits. -/
def Obligations.StatusWordAndItsClears : Prop :=
  ∀ s : State,
    s.statusWord.toNat = s.err.code.toNat * 16 + s.matValid.toNat * 8 + s.ovr.toNat * 4 + s.done.toNat * 2 + s.busy.toNat ∧
    memRead 0x000010 4 s = (.readOk s.statusWord, s) ∧
    memWrite 0x000010 4 0 s = (.writeOk, s) ∧
    memWrite 0x000010 4 2 s = (.writeOk, { s with done := false }) ∧
    memWrite 0x000010 4 4 s = (.writeOk, { s with ovr := false }) ∧
    memWrite 0x000010 4 6 s = (.writeOk, { s with done := false, ovr := false })

/-- 10_state R21, R22, R25, R32, R33, R37, R38, R39, 20_memory R70: the identification, parameter, control, command, result,
result length and material words. -/
def Obligations.IdentificationWordsRead : Prop :=
  ∀ s : State, s.cfg.legal →
    memRead 0x000000 4 s = (.readOk 0x53530007, s) ∧
    (∃ v, memRead 0x000004 4 s = (.readOk v, s) ∧ v.toNat = s.cfg.kmax * 2 ^ 16 + s.cfg.nmax) ∧
    (∃ v, memRead 0x000008 4 s = (.readOk v, s) ∧ v.toNat = s.cfg.pcap) ∧
    memRead 0x000014 4 s = (.readOk s.cmd, s) ∧
    (∃ v, memRead 0x00000C 4 s = (.readOk v, s) ∧ v.toNat = s.ie.toNat) ∧
    (s.busy = false → ∃ v, memRead 0x000018 4 s = (.readOk v, s) ∧ v.toNat = s.result.toNat) ∧
    (s.busy = false → ∃ v, memRead 0x00002C 4 s = (.readOk v, s) ∧ v.toNat = s.prLen.toNat) ∧
    (s.busy = false → ∃ v, memRead 0x000030 4 s = (.readOk v, s) ∧ v.toNat = s.outLen.toNat) ∧
    (s.busy = false → ∃ v, memRead 0x000034 4 s = (.readOk v, s) ∧ v.toNat = s.matT.toNat * 2 ^ 16 + s.matN.toNat)

/-- 70_reset R247: writes while BUSY = 1. -/
def Obligations.BusyWritesAreDropped : Prop :=
  ∀ (off w : Nat) (v : Word) (s : State), s.busy = true →
    (w = 4 → off % 4 = 0 → locate s.cfg off ≠ none → off ≠ 0x00000C → off ≠ 0x000010 →
      memWrite off w v s = (.writeOk, { s with ovr := true })) ∧
    (off = 0x00000C → w = 4 → v.getLsbD 1 = false → memWrite off w v s = (.writeOk, { s with ie := v.getLsbD 0 })) ∧
    (off = 0x00000C → w = 4 → v.getLsbD 1 = true → memWrite off w v s = (.writeOk, s.afterReset)) ∧
    (off = 0x000010 → w = 4 → memWrite off w v s =
      (.writeOk, { s with done := s.done && !v.getLsbD 1, ovr := s.ovr && !v.getLsbD 2 })) ∧
    (w ≠ 4 ∨ off % 4 ≠ 0 ∨ locate s.cfg off = none → memWrite off w v s = (.busError, s))

/-- 20_memory R69, 70_reset R248: a read has no effect (one draw is used up by an unspecified read); while BUSY = 1 six
registers read as defined, and every other mapped word reads as some word, whatever it may be. -/
def Obligations.ReadsHaveNoEffect : Prop :=
  ∀ (off w : Nat) (s : State),
    (memRead off w s).2 = { s with busyReads := (memRead off w s).2.busyReads } ∧
    (s.busy = false → (memRead off w s).2 = s) ∧
    (s.busy = true →
      memRead 0x000000 4 s = (.readOk 0x53530007, s) ∧ memRead 0x000004 4 s = (.readOk (s.regValue .param0), s) ∧
      memRead 0x000008 4 s = (.readOk (s.regValue .param1), s) ∧ memRead 0x00000C 4 s = (.readOk s.ctrlWord, s) ∧
      memRead 0x000010 4 s = (.readOk s.statusWord, s) ∧ memRead 0x000014 4 s = (.readOk s.cmd, s)) ∧
    (s.busy = true → w = 4 → off % 4 = 0 → locate s.cfg off ≠ none → 0x000018 ≤ off →
      ∃ v, memRead off w s = (.readOk v, { s with busyReads := s.busyReads + 1 }))

/-- 70_reset R240, R242, R244: a write to CTRL with bit 1 = 1 resets the core, busy or not. That it leaves the offers, the agenda
and the answers is the model's choice (log 13). -/
def Obligations.SoftResetGivesTheResetState : Prop :=
  ∀ (v : Word) (s : State), v.getLsbD 1 = true →
    ∃ t, memWrite 0x00000C 4 v s = (.writeOk, t) ∧ t.HasResetValues ∧ t.cfg = s.cfg ∧
      t.offers = s.offers ∧ t.agenda = s.agenda ∧ t.answers = s.answers

/-- 70_reset R240: the state after reset, in the reference configuration of 00_scope R5 (BASE is the model's choice, log 3). -/
def Obligations.ResetStateReadsAsTheTable : Prop :=
  memRead 0x000000 4 State.reset = (.readOk 0x53530007, State.reset) ∧
  memRead 0x000004 4 State.reset = (.readOk 0x01000100, State.reset) ∧
  memRead 0x000008 4 State.reset = (.readOk 0x00000200, State.reset) ∧
  (∀ off ∈ [0x00000C, 0x000010, 0x000014, 0x000018, 0x00001C, 0x000020, 0x000024, 0x000028, 0x00002C, 0x000030, 0x000034],
    memRead off 4 State.reset = (.readOk 0, State.reset)) ∧
  (∀ i, State.reset.slenAt i = 0#16) ∧ State.reset.irq = false ∧ State.reset.rngReady = false ∧ State.reset.held = []

/-- 44_control R202, 70_reset R247: while a command is in flight no event but a reset changes what it will read. -/
def Obligations.OperandsAreStableWhileBusy : Prop :=
  ∀ (e : Event) (s t : State), s.busy = true → external e s = t → t.busy = true →
    t = { s with
          ie := t.ie, done := t.done, ovr := t.ovr
          offers := t.offers, agenda := t.agenda, answers := t.answers, busyReads := t.busyReads }

/-- 20_memory R78, 60_exceptions R222: COEF never shows through the window, and only GET_SHARE and IS_VALID read it. -/
def Obligations.MaterialIsInvisible : Prop :=
  ∀ (s : State) (c : Memory) (n : Nat),
    (∀ e : Event, { external e { s with coef := c, coefEpoch := n } with coef := [], coefEpoch := 0 } =
      { external e s with coef := [], coefEpoch := 0 }) ∧
    (∀ (i : Instr) (t t' : State), (∀ id, i ≠ .getShare id) → (∀ slot, i ≠ .isValid slot) →
      exec i s = .next t → exec i { s with coef := c, coefEpoch := n } = .next t' →
      { t' with coef := [], coefEpoch := 0 } = { t with coef := [], coefEpoch := 0 })

/-- 10_state R45: rng_ready is high only while a SPLIT in flight needs a byte; then the core takes what is offered. That it is
high all that while, and that one turn takes all the offered bytes needed, is the model's (log 8). -/
def Obligations.RngReadyOnlyWhileSplitNeedsBytes : Prop :=
  (∀ s : State, s.rngReady = true →
    ∃ T, s.busy = true ∧ decode s.cmd = .instr (.split T) ∧
      s.held.length < s.secretLen.toNat * (T.toNat - 1) ∧
      (s.agenda = [] → ∃ t, step s = .next t ∧
        t.offers = s.offers.drop (s.secretLen.toNat * (T.toNat - 1) - s.held.length))) ∧
  (∀ (s : State) (T : Byte), s.busy = true → decode s.cmd = .instr (.split T) → T ≠ 0#8 →
    s.secretLen.toNat ≤ s.cfg.nmax → s.held.length < s.secretLen.toNat * (T.toNat - 1) → s.rngReady = true)

/-- 30_encoding R98 WAIT, by the model's schedule (log 1): each turn reads STATUS; while BUSY = 1 the core takes its turn and the
host reads again. -/
def Obligations.WaitPollsUntilIdle : Prop :=
  ∀ (s : State) (rest : List Event), s.agenda = .poll :: rest →
    (s.busy = false → step s = .next { s with agenda := rest, answers := .readOk s.statusWord :: s.answers }) ∧
    (s.busy = true → step s =
      .next { s with agenda := .core :: .poll :: rest, answers := .readOk s.statusWord :: s.answers })
end

