-- ==== Sys2Proof/Laws/Cells.lean ====
section
/-! SUPPORT. Sparse cells: read after put, after drop and after a run of writes; every operation keeps the canonical form. -/

namespace Sys2Proof.Machine

variable {α : Type}

@[simp] theorem Cells.find_nil (a : Nat) : Cells.find ([] : List (Nat × α)) a = none := rfl

theorem Cells.find_cons (b : Nat) (w : α) (m : List (Nat × α)) (a : Nat) :
    Cells.find ((b, w) :: m) a = if a = b then some w else Cells.find m a := rfl

@[simp] theorem Cells.find_put_self (m : List (Nat × α)) (a : Nat) (v : α) :
    Cells.find (Cells.put m a v) a = some v := by
  induction m with
  | nil => simp [Cells.put, Cells.find]
  | cons c m ih =>
    obtain ⟨b, w⟩ := c
    simp only [Cells.put]
    split_ifs with h1 h2
    · simp [Cells.find]
    · simp [Cells.find]
    · simp [Cells.find, h2, ih]

theorem Cells.find_put_other (m : List (Nat × α)) {a a' : Nat} (v : α) (h : a' ≠ a) :
    Cells.find (Cells.put m a v) a' = Cells.find m a' := by
  induction m with
  | nil => simp [Cells.put, Cells.find, h]
  | cons c m ih =>
    obtain ⟨b, w⟩ := c
    simp only [Cells.put]
    split_ifs with h1 h2
    · simp [Cells.find, h]
    · subst h2; simp [Cells.find, h]
    · simp [Cells.find, ih]

theorem Cells.find_put (m : List (Nat × α)) (a a' : Nat) (v : α) :
    Cells.find (Cells.put m a v) a' = if a' = a then some v else Cells.find m a' := by
  split_ifs with h
  · rw [h, Cells.find_put_self]
  · exact Cells.find_put_other m v h

theorem Cells.find_drop (m : List (Nat × α)) (a a' : Nat) :
    Cells.find (Cells.drop m a) a' = if a' = a then none else Cells.find m a' := by
  induction m with
  | nil => simp [Cells.drop]
  | cons c m ih =>
    obtain ⟨b, w⟩ := c
    simp only [Cells.drop] at ih
    by_cases hb : b = a
    · subst hb
      simp only [Cells.drop, ne_eq, not_true_eq_false, decide_false, Bool.false_eq_true, not_false_eq_true,
        List.filter_cons_of_neg, Cells.find_cons, ih]
      split_ifs <;> rfl
    · simp only [Cells.drop, ne_eq, hb, not_false_eq_true, decide_true, List.filter_cons_of_pos, Cells.find_cons, ih]
      split_ifs with h1 h2 h2
      · exact absurd (h1.symm.trans h2) hb
      all_goals rfl

/-- The entries of a put are the new one and old ones of other keys. -/
theorem Cells.mem_put {m : List (Nat × α)} {a : Nat} {v : α} {c : Nat × α} (h : c ∈ Cells.put m a v) :
    c = (a, v) ∨ c ∈ m := by
  induction m with
  | nil => simpa [Cells.put] using h
  | cons d m ih =>
    obtain ⟨b, w⟩ := d
    simp only [Cells.put] at h
    split_ifs at h with h1 h2
    · simpa using h
    · rcases List.mem_cons.1 h with h | h
      · exact .inl h
      · exact .inr (List.mem_cons_of_mem _ h)
    · rcases List.mem_cons.1 h with h | h
      · exact .inr (h ▸ List.mem_cons_self)
      · exact (ih h).imp id (List.mem_cons_of_mem _)

/-- A put keeps the canonical form. -/
theorem Cells.wf_put {m : List (Nat × α)} (h : Cells.wf m) (a : Nat) (v : α) : Cells.wf (Cells.put m a v) := by
  induction m with
  | nil => simp [Cells.put, Cells.wf]
  | cons c m ih =>
    obtain ⟨b, w⟩ := c
    obtain ⟨hb, hm⟩ := List.pairwise_cons.1 h
    simp only [Cells.put]
    split_ifs with h1 h2
    · refine List.pairwise_cons.2 ⟨fun x hx => ?_, h⟩
      rcases List.mem_cons.1 hx with rfl | hx
      · exact h1
      · exact h1.trans (hb x hx)
    · subst h2; exact List.pairwise_cons.2 ⟨hb, hm⟩
    · refine List.pairwise_cons.2 ⟨fun x hx => ?_, ih hm⟩
      obtain ⟨c, hc, rfl⟩ := List.mem_map.1 hx
      rcases Cells.mem_put hc with rfl | hc
      · simp only; omega
      · exact hb _ (List.mem_map_of_mem hc)

/-- A drop keeps the canonical form. -/
theorem Cells.wf_drop {m : List (Nat × α)} (h : Cells.wf m) (a : Nat) : Cells.wf (Cells.drop m a) :=
  List.Pairwise.sublist (List.filter_sublist.map _) h

theorem Cells.mem_drop {m : List (Nat × α)} {a : Nat} {c : Nat × α} (h : c ∈ Cells.drop m a) : c ∈ m :=
  List.mem_of_mem_filter h

/-- In canonical form an entry of the list is what its key finds. -/
theorem Cells.find_of_mem {m : List (Nat × α)} (h : Cells.wf m) {a : Nat} {v : α} (hc : (a, v) ∈ m) :
    Cells.find m a = some v := by
  induction m with
  | nil => cases hc
  | cons d m ih =>
    obtain ⟨b, w⟩ := d
    obtain ⟨hb, hm⟩ := List.pairwise_cons.1 h
    rcases List.mem_cons.1 hc with hc | hc
    · cases hc; simp [Cells.find]
    · have : b < a := hb a (List.mem_map_of_mem hc)
      rw [Cells.find_cons, if_neg (by omega)]
      exact ih hm hc

/-- Equal memories are equal data: two canonical lists that find the same everywhere are the same list. -/
theorem Cells.ext_of_find {m m' : List (Nat × α)} (h : Cells.wf m) (h' : Cells.wf m')
    (e : ∀ a, Cells.find m a = Cells.find m' a) : m = m' := by
  induction m generalizing m' with
  | nil =>
    cases m' with
    | nil => rfl
    | cons d m' => have := e d.1; simp [Cells.find] at this
  | cons c m ih =>
    obtain ⟨b, w⟩ := c
    cases m' with
    | nil => have := e b; simp [Cells.find] at this
    | cons d m' =>
      obtain ⟨b', w'⟩ := d
      obtain ⟨hb, hm⟩ := List.pairwise_cons.1 h
      obtain ⟨hb', hm'⟩ := List.pairwise_cons.1 h'
      have low : ∀ {n : List (Nat × α)} {k : Nat}, (∀ x ∈ n.map Prod.fst, k < x) → ∀ a, a ≤ k → Cells.find n a = none := by
        intro n k hn a ha
        induction n with
        | nil => rfl
        | cons y n ihn =>
          have hy : k < y.1 := hn y.1 (by simp)
          obtain ⟨yk, yv⟩ := y
          rw [Cells.find_cons, if_neg (by simp only at hy; omega)]
          exact ihn fun x hx => hn x (by simp only [List.map_cons, List.mem_cons]; exact .inr hx)
      have hbb : b = b' := by
        rcases Nat.lt_trichotomy b b' with hl | he | hg
        · have := e b
          rw [Cells.find_cons, if_pos rfl, Cells.find_cons, if_neg (by omega), low hb' b (by omega)] at this
          cases this
        · exact he
        · have := e b'
          rw [Cells.find_cons, if_neg (by omega), Cells.find_cons, if_pos rfl, low hb b' (by omega)] at this
          cases this
      subst hbb
      have hw : w = w' := by simpa [Cells.find] using e b
      subst hw
      congr 1
      refine ih hm hm' fun a => ?_
      by_cases ha : a = b
      · subst ha; rw [low hb a le_rfl, low hb' a le_rfl]
      · simpa [Cells.find, ha] using e a

/-- A run of writes keeps the canonical form. -/
theorem Memory.wf_writeFrom {m : Memory} (h : Memory.wf m) (base : Nat) (l : List Byte) :
    Memory.wf (Memory.writeFrom m base l) := by
  induction l generalizing m base with
  | nil => exact h
  | cons v l ih => exact ih (Cells.wf_put h base v) (base + 4)

/-- What a run of writes leaves at an address: the written byte, or what was there. -/
theorem Memory.find_writeFrom (m : Memory) (base : Nat) (l : List Byte) (a : Nat) :
    Cells.find (Memory.writeFrom m base l) a =
      if base ≤ a ∧ (a - base) % 4 = 0 ∧ (a - base) / 4 < l.length then l[(a - base) / 4]? else Cells.find m a := by
  induction l generalizing m base with
  | nil => simp [Memory.writeFrom]
  | cons v l ih =>
    rw [Memory.writeFrom, ih, Cells.find_put]
    simp only [List.length_cons]
    by_cases h1 : base + 4 ≤ a ∧ (a - (base + 4)) % 4 = 0 ∧ (a - (base + 4)) / 4 < l.length
    · have hi : (a - base) / 4 = (a - (base + 4)) / 4 + 1 := by omega
      rw [if_pos h1, if_pos (by omega), hi, List.getElem?_cons_succ]
    · rw [if_neg h1]
      by_cases h2 : a = base
      · subst h2; simp
      · rw [if_neg h2, if_neg (by omega)]

/-- The entries of a run of writes: old ones, and one for each written byte. -/
theorem Memory.mem_writeFrom {m : Memory} {base : Nat} {l : List Byte} {c : Nat × Byte}
    (h : c ∈ Memory.writeFrom m base l) : c ∈ m ∨ ∃ k, k < l.length ∧ c.1 = base + 4 * k := by
  induction l generalizing m base with
  | nil => exact .inl h
  | cons v l ih =>
    rcases ih h with h | ⟨k, hk, he⟩
    · rcases Cells.mem_put h with rfl | h
      · exact .inr ⟨0, by simp, by simp⟩
      · exact .inl h
    · exact .inr ⟨k + 1, by simpa using hk, by rw [he]; omega⟩

end Sys2Proof.Machine
end

