-- ==== Sys2Proof/Laws/State.lean ====
section
/-! SUPPORT. One lemma per field per update of State, each true by rfl, so that no later proof unfolds a record update. -/

namespace Sys2Proof.Machine

@[simp] theorem complete_eq (s : State) : complete s = finish .ok s := rfl

@[simp] theorem raise_eq (e : ErrCode) (s : State) : raise e s = finish e s := rfl

/-! ### finish -/

@[simp] theorem finish_ie (e : ErrCode) (s : State) : (finish e s).ie = s.ie := rfl
@[simp] theorem finish_busy (e : ErrCode) (s : State) : (finish e s).busy = false := rfl
@[simp] theorem finish_done (e : ErrCode) (s : State) : (finish e s).done = true := rfl
@[simp] theorem finish_ovr (e : ErrCode) (s : State) : (finish e s).ovr = s.ovr := rfl
@[simp] theorem finish_matValid (e : ErrCode) (s : State) : (finish e s).matValid = s.matValid := rfl
@[simp] theorem finish_err (e : ErrCode) (s : State) : (finish e s).err = e := rfl
@[simp] theorem finish_cmd (e : ErrCode) (s : State) : (finish e s).cmd = s.cmd := rfl
@[simp] theorem finish_result (e : ErrCode) (s : State) : (finish e s).result = s.result := rfl
@[simp] theorem finish_secretLen (e : ErrCode) (s : State) : (finish e s).secretLen = s.secretLen := rfl
@[simp] theorem finish_nshares (e : ErrCode) (s : State) : (finish e s).nshares = s.nshares := rfl
@[simp] theorem finish_paLen (e : ErrCode) (s : State) : (finish e s).paLen = s.paLen := rfl
@[simp] theorem finish_pbLen (e : ErrCode) (s : State) : (finish e s).pbLen = s.pbLen := rfl
@[simp] theorem finish_prLen (e : ErrCode) (s : State) : (finish e s).prLen = s.prLen := rfl
@[simp] theorem finish_outLen (e : ErrCode) (s : State) : (finish e s).outLen = s.outLen := rfl
@[simp] theorem finish_matN (e : ErrCode) (s : State) : (finish e s).matN = s.matN := rfl
@[simp] theorem finish_matT (e : ErrCode) (s : State) : (finish e s).matT = s.matT := rfl
@[simp] theorem finish_slen (e : ErrCode) (s : State) : (finish e s).slen = s.slen := rfl
@[simp] theorem finish_mem (e : ErrCode) (s : State) : (finish e s).mem = s.mem := rfl
@[simp] theorem finish_coef (e : ErrCode) (s : State) : (finish e s).coef = s.coef := rfl
@[simp] theorem finish_held (e : ErrCode) (s : State) : (finish e s).held = [] := rfl
@[simp] theorem finish_cfg (e : ErrCode) (s : State) : (finish e s).cfg = s.cfg := rfl
@[simp] theorem finish_offers (e : ErrCode) (s : State) : (finish e s).offers = s.offers := rfl
@[simp] theorem finish_agenda (e : ErrCode) (s : State) : (finish e s).agenda = s.agenda := rfl
@[simp] theorem finish_answers (e : ErrCode) (s : State) : (finish e s).answers = s.answers := rfl
@[simp] theorem finish_bufEpoch (e : ErrCode) (s : State) : (finish e s).bufEpoch = s.bufEpoch := rfl
@[simp] theorem finish_coefEpoch (e : ErrCode) (s : State) : (finish e s).coefEpoch = s.coefEpoch := rfl
@[simp] theorem finish_busyReads (e : ErrCode) (s : State) : (finish e s).busyReads = s.busyReads := rfl

/-! ### accept -/

@[simp] theorem accept_ie (w : Word) (s : State) : (accept w s).ie = s.ie := rfl
@[simp] theorem accept_busy (w : Word) (s : State) : (accept w s).busy = true := rfl
@[simp] theorem accept_done (w : Word) (s : State) : (accept w s).done = false := rfl
@[simp] theorem accept_ovr (w : Word) (s : State) : (accept w s).ovr = s.ovr := rfl
@[simp] theorem accept_matValid (w : Word) (s : State) : (accept w s).matValid = s.matValid := rfl
@[simp] theorem accept_err (w : Word) (s : State) : (accept w s).err = s.err := rfl
@[simp] theorem accept_cmd (w : Word) (s : State) : (accept w s).cmd = w := rfl
@[simp] theorem accept_result (w : Word) (s : State) : (accept w s).result = s.result := rfl
@[simp] theorem accept_secretLen (w : Word) (s : State) : (accept w s).secretLen = s.secretLen := rfl
@[simp] theorem accept_nshares (w : Word) (s : State) : (accept w s).nshares = s.nshares := rfl
@[simp] theorem accept_paLen (w : Word) (s : State) : (accept w s).paLen = s.paLen := rfl
@[simp] theorem accept_pbLen (w : Word) (s : State) : (accept w s).pbLen = s.pbLen := rfl
@[simp] theorem accept_prLen (w : Word) (s : State) : (accept w s).prLen = s.prLen := rfl
@[simp] theorem accept_outLen (w : Word) (s : State) : (accept w s).outLen = s.outLen := rfl
@[simp] theorem accept_matN (w : Word) (s : State) : (accept w s).matN = s.matN := rfl
@[simp] theorem accept_matT (w : Word) (s : State) : (accept w s).matT = s.matT := rfl
@[simp] theorem accept_slen (w : Word) (s : State) : (accept w s).slen = s.slen := rfl
@[simp] theorem accept_mem (w : Word) (s : State) : (accept w s).mem = s.mem := rfl
@[simp] theorem accept_coef (w : Word) (s : State) : (accept w s).coef = s.coef := rfl
@[simp] theorem accept_held (w : Word) (s : State) : (accept w s).held = s.held := rfl
@[simp] theorem accept_cfg (w : Word) (s : State) : (accept w s).cfg = s.cfg := rfl
@[simp] theorem accept_offers (w : Word) (s : State) : (accept w s).offers = s.offers := rfl
@[simp] theorem accept_agenda (w : Word) (s : State) : (accept w s).agenda = s.agenda := rfl
@[simp] theorem accept_answers (w : Word) (s : State) : (accept w s).answers = s.answers := rfl
@[simp] theorem accept_bufEpoch (w : Word) (s : State) : (accept w s).bufEpoch = s.bufEpoch := rfl
@[simp] theorem accept_coefEpoch (w : Word) (s : State) : (accept w s).coefEpoch = s.coefEpoch := rfl
@[simp] theorem accept_busyReads (w : Word) (s : State) : (accept w s).busyReads = s.busyReads := rfl

/-! ### storeBytes -/

@[simp] theorem storeBytes_ie (s : State) (base : Nat) (l : List Byte) : (s.storeBytes base l).ie = s.ie := rfl
@[simp] theorem storeBytes_busy (s : State) (base : Nat) (l : List Byte) : (s.storeBytes base l).busy = s.busy := rfl
@[simp] theorem storeBytes_done (s : State) (base : Nat) (l : List Byte) : (s.storeBytes base l).done = s.done := rfl
@[simp] theorem storeBytes_ovr (s : State) (base : Nat) (l : List Byte) : (s.storeBytes base l).ovr = s.ovr := rfl
@[simp] theorem storeBytes_matValid (s : State) (base : Nat) (l : List Byte) : (s.storeBytes base l).matValid = s.matValid := rfl
@[simp] theorem storeBytes_err (s : State) (base : Nat) (l : List Byte) : (s.storeBytes base l).err = s.err := rfl
@[simp] theorem storeBytes_cmd (s : State) (base : Nat) (l : List Byte) : (s.storeBytes base l).cmd = s.cmd := rfl
@[simp] theorem storeBytes_result (s : State) (base : Nat) (l : List Byte) : (s.storeBytes base l).result = s.result := rfl
@[simp] theorem storeBytes_secretLen (s : State) (base : Nat) (l : List Byte) : (s.storeBytes base l).secretLen = s.secretLen := rfl
@[simp] theorem storeBytes_nshares (s : State) (base : Nat) (l : List Byte) : (s.storeBytes base l).nshares = s.nshares := rfl
@[simp] theorem storeBytes_paLen (s : State) (base : Nat) (l : List Byte) : (s.storeBytes base l).paLen = s.paLen := rfl
@[simp] theorem storeBytes_pbLen (s : State) (base : Nat) (l : List Byte) : (s.storeBytes base l).pbLen = s.pbLen := rfl
@[simp] theorem storeBytes_prLen (s : State) (base : Nat) (l : List Byte) : (s.storeBytes base l).prLen = s.prLen := rfl
@[simp] theorem storeBytes_outLen (s : State) (base : Nat) (l : List Byte) : (s.storeBytes base l).outLen = s.outLen := rfl
@[simp] theorem storeBytes_matN (s : State) (base : Nat) (l : List Byte) : (s.storeBytes base l).matN = s.matN := rfl
@[simp] theorem storeBytes_matT (s : State) (base : Nat) (l : List Byte) : (s.storeBytes base l).matT = s.matT := rfl
@[simp] theorem storeBytes_slen (s : State) (base : Nat) (l : List Byte) : (s.storeBytes base l).slen = s.slen := rfl
@[simp] theorem storeBytes_mem (s : State) (base : Nat) (l : List Byte) : (s.storeBytes base l).mem = Memory.writeFrom s.mem base l := rfl
@[simp] theorem storeBytes_coef (s : State) (base : Nat) (l : List Byte) : (s.storeBytes base l).coef = s.coef := rfl
@[simp] theorem storeBytes_held (s : State) (base : Nat) (l : List Byte) : (s.storeBytes base l).held = s.held := rfl
@[simp] theorem storeBytes_cfg (s : State) (base : Nat) (l : List Byte) : (s.storeBytes base l).cfg = s.cfg := rfl
@[simp] theorem storeBytes_offers (s : State) (base : Nat) (l : List Byte) : (s.storeBytes base l).offers = s.offers := rfl
@[simp] theorem storeBytes_agenda (s : State) (base : Nat) (l : List Byte) : (s.storeBytes base l).agenda = s.agenda := rfl
@[simp] theorem storeBytes_answers (s : State) (base : Nat) (l : List Byte) : (s.storeBytes base l).answers = s.answers := rfl
@[simp] theorem storeBytes_bufEpoch (s : State) (base : Nat) (l : List Byte) : (s.storeBytes base l).bufEpoch = s.bufEpoch := rfl
@[simp] theorem storeBytes_coefEpoch (s : State) (base : Nat) (l : List Byte) : (s.storeBytes base l).coefEpoch = s.coefEpoch := rfl
@[simp] theorem storeBytes_busyReads (s : State) (base : Nat) (l : List Byte) : (s.storeBytes base l).busyReads = s.busyReads := rfl

/-! ### setSlen -/

@[simp] theorem setSlen_ie (s : State) (i : Nat) (v : Half) : (s.setSlen i v).ie = s.ie := rfl
@[simp] theorem setSlen_busy (s : State) (i : Nat) (v : Half) : (s.setSlen i v).busy = s.busy := rfl
@[simp] theorem setSlen_done (s : State) (i : Nat) (v : Half) : (s.setSlen i v).done = s.done := rfl
@[simp] theorem setSlen_ovr (s : State) (i : Nat) (v : Half) : (s.setSlen i v).ovr = s.ovr := rfl
@[simp] theorem setSlen_matValid (s : State) (i : Nat) (v : Half) : (s.setSlen i v).matValid = s.matValid := rfl
@[simp] theorem setSlen_err (s : State) (i : Nat) (v : Half) : (s.setSlen i v).err = s.err := rfl
@[simp] theorem setSlen_cmd (s : State) (i : Nat) (v : Half) : (s.setSlen i v).cmd = s.cmd := rfl
@[simp] theorem setSlen_result (s : State) (i : Nat) (v : Half) : (s.setSlen i v).result = s.result := rfl
@[simp] theorem setSlen_secretLen (s : State) (i : Nat) (v : Half) : (s.setSlen i v).secretLen = s.secretLen := rfl
@[simp] theorem setSlen_nshares (s : State) (i : Nat) (v : Half) : (s.setSlen i v).nshares = s.nshares := rfl
@[simp] theorem setSlen_paLen (s : State) (i : Nat) (v : Half) : (s.setSlen i v).paLen = s.paLen := rfl
@[simp] theorem setSlen_pbLen (s : State) (i : Nat) (v : Half) : (s.setSlen i v).pbLen = s.pbLen := rfl
@[simp] theorem setSlen_prLen (s : State) (i : Nat) (v : Half) : (s.setSlen i v).prLen = s.prLen := rfl
@[simp] theorem setSlen_outLen (s : State) (i : Nat) (v : Half) : (s.setSlen i v).outLen = s.outLen := rfl
@[simp] theorem setSlen_matN (s : State) (i : Nat) (v : Half) : (s.setSlen i v).matN = s.matN := rfl
@[simp] theorem setSlen_matT (s : State) (i : Nat) (v : Half) : (s.setSlen i v).matT = s.matT := rfl
@[simp] theorem setSlen_slen (s : State) (i : Nat) (v : Half) : (s.setSlen i v).slen = if v = 0#16 then Cells.drop s.slen i else Cells.put s.slen i v := rfl
@[simp] theorem setSlen_mem (s : State) (i : Nat) (v : Half) : (s.setSlen i v).mem = s.mem := rfl
@[simp] theorem setSlen_coef (s : State) (i : Nat) (v : Half) : (s.setSlen i v).coef = s.coef := rfl
@[simp] theorem setSlen_held (s : State) (i : Nat) (v : Half) : (s.setSlen i v).held = s.held := rfl
@[simp] theorem setSlen_cfg (s : State) (i : Nat) (v : Half) : (s.setSlen i v).cfg = s.cfg := rfl
@[simp] theorem setSlen_offers (s : State) (i : Nat) (v : Half) : (s.setSlen i v).offers = s.offers := rfl
@[simp] theorem setSlen_agenda (s : State) (i : Nat) (v : Half) : (s.setSlen i v).agenda = s.agenda := rfl
@[simp] theorem setSlen_answers (s : State) (i : Nat) (v : Half) : (s.setSlen i v).answers = s.answers := rfl
@[simp] theorem setSlen_bufEpoch (s : State) (i : Nat) (v : Half) : (s.setSlen i v).bufEpoch = s.bufEpoch := rfl
@[simp] theorem setSlen_coefEpoch (s : State) (i : Nat) (v : Half) : (s.setSlen i v).coefEpoch = s.coefEpoch := rfl
@[simp] theorem setSlen_busyReads (s : State) (i : Nat) (v : Half) : (s.setSlen i v).busyReads = s.busyReads := rfl

/-! ### setResult -/

@[simp] theorem setResult_ie (s : State) (v : Byte) : (s.setResult v).ie = s.ie := rfl
@[simp] theorem setResult_busy (s : State) (v : Byte) : (s.setResult v).busy = s.busy := rfl
@[simp] theorem setResult_done (s : State) (v : Byte) : (s.setResult v).done = s.done := rfl
@[simp] theorem setResult_ovr (s : State) (v : Byte) : (s.setResult v).ovr = s.ovr := rfl
@[simp] theorem setResult_matValid (s : State) (v : Byte) : (s.setResult v).matValid = s.matValid := rfl
@[simp] theorem setResult_err (s : State) (v : Byte) : (s.setResult v).err = s.err := rfl
@[simp] theorem setResult_cmd (s : State) (v : Byte) : (s.setResult v).cmd = s.cmd := rfl
@[simp] theorem setResult_result (s : State) (v : Byte) : (s.setResult v).result = v := rfl
@[simp] theorem setResult_secretLen (s : State) (v : Byte) : (s.setResult v).secretLen = s.secretLen := rfl
@[simp] theorem setResult_nshares (s : State) (v : Byte) : (s.setResult v).nshares = s.nshares := rfl
@[simp] theorem setResult_paLen (s : State) (v : Byte) : (s.setResult v).paLen = s.paLen := rfl
@[simp] theorem setResult_pbLen (s : State) (v : Byte) : (s.setResult v).pbLen = s.pbLen := rfl
@[simp] theorem setResult_prLen (s : State) (v : Byte) : (s.setResult v).prLen = s.prLen := rfl
@[simp] theorem setResult_outLen (s : State) (v : Byte) : (s.setResult v).outLen = s.outLen := rfl
@[simp] theorem setResult_matN (s : State) (v : Byte) : (s.setResult v).matN = s.matN := rfl
@[simp] theorem setResult_matT (s : State) (v : Byte) : (s.setResult v).matT = s.matT := rfl
@[simp] theorem setResult_slen (s : State) (v : Byte) : (s.setResult v).slen = s.slen := rfl
@[simp] theorem setResult_mem (s : State) (v : Byte) : (s.setResult v).mem = s.mem := rfl
@[simp] theorem setResult_coef (s : State) (v : Byte) : (s.setResult v).coef = s.coef := rfl
@[simp] theorem setResult_held (s : State) (v : Byte) : (s.setResult v).held = s.held := rfl
@[simp] theorem setResult_cfg (s : State) (v : Byte) : (s.setResult v).cfg = s.cfg := rfl
@[simp] theorem setResult_offers (s : State) (v : Byte) : (s.setResult v).offers = s.offers := rfl
@[simp] theorem setResult_agenda (s : State) (v : Byte) : (s.setResult v).agenda = s.agenda := rfl
@[simp] theorem setResult_answers (s : State) (v : Byte) : (s.setResult v).answers = s.answers := rfl
@[simp] theorem setResult_bufEpoch (s : State) (v : Byte) : (s.setResult v).bufEpoch = s.bufEpoch := rfl
@[simp] theorem setResult_coefEpoch (s : State) (v : Byte) : (s.setResult v).coefEpoch = s.coefEpoch := rfl
@[simp] theorem setResult_busyReads (s : State) (v : Byte) : (s.setResult v).busyReads = s.busyReads := rfl

/-! ### setPr -/

@[simp] theorem setPr_ie (s : State) (r : List Byte) : (s.setPr r).ie = s.ie := rfl
@[simp] theorem setPr_busy (s : State) (r : List Byte) : (s.setPr r).busy = s.busy := rfl
@[simp] theorem setPr_done (s : State) (r : List Byte) : (s.setPr r).done = s.done := rfl
@[simp] theorem setPr_ovr (s : State) (r : List Byte) : (s.setPr r).ovr = s.ovr := rfl
@[simp] theorem setPr_matValid (s : State) (r : List Byte) : (s.setPr r).matValid = s.matValid := rfl
@[simp] theorem setPr_err (s : State) (r : List Byte) : (s.setPr r).err = s.err := rfl
@[simp] theorem setPr_cmd (s : State) (r : List Byte) : (s.setPr r).cmd = s.cmd := rfl
@[simp] theorem setPr_result (s : State) (r : List Byte) : (s.setPr r).result = s.result := rfl
@[simp] theorem setPr_secretLen (s : State) (r : List Byte) : (s.setPr r).secretLen = s.secretLen := rfl
@[simp] theorem setPr_nshares (s : State) (r : List Byte) : (s.setPr r).nshares = s.nshares := rfl
@[simp] theorem setPr_paLen (s : State) (r : List Byte) : (s.setPr r).paLen = s.paLen := rfl
@[simp] theorem setPr_pbLen (s : State) (r : List Byte) : (s.setPr r).pbLen = s.pbLen := rfl
@[simp] theorem setPr_prLen (s : State) (r : List Byte) : (s.setPr r).prLen = BitVec.ofNat 16 r.length := rfl
@[simp] theorem setPr_outLen (s : State) (r : List Byte) : (s.setPr r).outLen = s.outLen := rfl
@[simp] theorem setPr_matN (s : State) (r : List Byte) : (s.setPr r).matN = s.matN := rfl
@[simp] theorem setPr_matT (s : State) (r : List Byte) : (s.setPr r).matT = s.matT := rfl
@[simp] theorem setPr_slen (s : State) (r : List Byte) : (s.setPr r).slen = s.slen := rfl
@[simp] theorem setPr_mem (s : State) (r : List Byte) : (s.setPr r).mem = Memory.writeFrom s.mem 0x038000 r := rfl
@[simp] theorem setPr_coef (s : State) (r : List Byte) : (s.setPr r).coef = s.coef := rfl
@[simp] theorem setPr_held (s : State) (r : List Byte) : (s.setPr r).held = s.held := rfl
@[simp] theorem setPr_cfg (s : State) (r : List Byte) : (s.setPr r).cfg = s.cfg := rfl
@[simp] theorem setPr_offers (s : State) (r : List Byte) : (s.setPr r).offers = s.offers := rfl
@[simp] theorem setPr_agenda (s : State) (r : List Byte) : (s.setPr r).agenda = s.agenda := rfl
@[simp] theorem setPr_answers (s : State) (r : List Byte) : (s.setPr r).answers = s.answers := rfl
@[simp] theorem setPr_bufEpoch (s : State) (r : List Byte) : (s.setPr r).bufEpoch = s.bufEpoch := rfl
@[simp] theorem setPr_coefEpoch (s : State) (r : List Byte) : (s.setPr r).coefEpoch = s.coefEpoch := rfl
@[simp] theorem setPr_busyReads (s : State) (r : List Byte) : (s.setPr r).busyReads = s.busyReads := rfl

/-! ### setOut -/

@[simp] theorem setOut_ie (s : State) (l : List Byte) : (s.setOut l).ie = s.ie := rfl
@[simp] theorem setOut_busy (s : State) (l : List Byte) : (s.setOut l).busy = s.busy := rfl
@[simp] theorem setOut_done (s : State) (l : List Byte) : (s.setOut l).done = s.done := rfl
@[simp] theorem setOut_ovr (s : State) (l : List Byte) : (s.setOut l).ovr = s.ovr := rfl
@[simp] theorem setOut_matValid (s : State) (l : List Byte) : (s.setOut l).matValid = s.matValid := rfl
@[simp] theorem setOut_err (s : State) (l : List Byte) : (s.setOut l).err = s.err := rfl
@[simp] theorem setOut_cmd (s : State) (l : List Byte) : (s.setOut l).cmd = s.cmd := rfl
@[simp] theorem setOut_result (s : State) (l : List Byte) : (s.setOut l).result = s.result := rfl
@[simp] theorem setOut_secretLen (s : State) (l : List Byte) : (s.setOut l).secretLen = s.secretLen := rfl
@[simp] theorem setOut_nshares (s : State) (l : List Byte) : (s.setOut l).nshares = s.nshares := rfl
@[simp] theorem setOut_paLen (s : State) (l : List Byte) : (s.setOut l).paLen = s.paLen := rfl
@[simp] theorem setOut_pbLen (s : State) (l : List Byte) : (s.setOut l).pbLen = s.pbLen := rfl
@[simp] theorem setOut_prLen (s : State) (l : List Byte) : (s.setOut l).prLen = s.prLen := rfl
@[simp] theorem setOut_outLen (s : State) (l : List Byte) : (s.setOut l).outLen = BitVec.ofNat 16 l.length := rfl
@[simp] theorem setOut_matN (s : State) (l : List Byte) : (s.setOut l).matN = s.matN := rfl
@[simp] theorem setOut_matT (s : State) (l : List Byte) : (s.setOut l).matT = s.matT := rfl
@[simp] theorem setOut_slen (s : State) (l : List Byte) : (s.setOut l).slen = s.slen := rfl
@[simp] theorem setOut_mem (s : State) (l : List Byte) : (s.setOut l).mem = Memory.writeFrom s.mem 0x020000 l := rfl
@[simp] theorem setOut_coef (s : State) (l : List Byte) : (s.setOut l).coef = s.coef := rfl
@[simp] theorem setOut_held (s : State) (l : List Byte) : (s.setOut l).held = s.held := rfl
@[simp] theorem setOut_cfg (s : State) (l : List Byte) : (s.setOut l).cfg = s.cfg := rfl
@[simp] theorem setOut_offers (s : State) (l : List Byte) : (s.setOut l).offers = s.offers := rfl
@[simp] theorem setOut_agenda (s : State) (l : List Byte) : (s.setOut l).agenda = s.agenda := rfl
@[simp] theorem setOut_answers (s : State) (l : List Byte) : (s.setOut l).answers = s.answers := rfl
@[simp] theorem setOut_bufEpoch (s : State) (l : List Byte) : (s.setOut l).bufEpoch = s.bufEpoch := rfl
@[simp] theorem setOut_coefEpoch (s : State) (l : List Byte) : (s.setOut l).coefEpoch = s.coefEpoch := rfl
@[simp] theorem setOut_busyReads (s : State) (l : List Byte) : (s.setOut l).busyReads = s.busyReads := rfl

/-! ### takeDraws -/

@[simp] theorem takeDraws_ie (s : State) (need : Nat) : (s.takeDraws need).ie = s.ie := rfl
@[simp] theorem takeDraws_busy (s : State) (need : Nat) : (s.takeDraws need).busy = s.busy := rfl
@[simp] theorem takeDraws_done (s : State) (need : Nat) : (s.takeDraws need).done = s.done := rfl
@[simp] theorem takeDraws_ovr (s : State) (need : Nat) : (s.takeDraws need).ovr = s.ovr := rfl
@[simp] theorem takeDraws_matValid (s : State) (need : Nat) : (s.takeDraws need).matValid = s.matValid := rfl
@[simp] theorem takeDraws_err (s : State) (need : Nat) : (s.takeDraws need).err = s.err := rfl
@[simp] theorem takeDraws_cmd (s : State) (need : Nat) : (s.takeDraws need).cmd = s.cmd := rfl
@[simp] theorem takeDraws_result (s : State) (need : Nat) : (s.takeDraws need).result = s.result := rfl
@[simp] theorem takeDraws_secretLen (s : State) (need : Nat) : (s.takeDraws need).secretLen = s.secretLen := rfl
@[simp] theorem takeDraws_nshares (s : State) (need : Nat) : (s.takeDraws need).nshares = s.nshares := rfl
@[simp] theorem takeDraws_paLen (s : State) (need : Nat) : (s.takeDraws need).paLen = s.paLen := rfl
@[simp] theorem takeDraws_pbLen (s : State) (need : Nat) : (s.takeDraws need).pbLen = s.pbLen := rfl
@[simp] theorem takeDraws_prLen (s : State) (need : Nat) : (s.takeDraws need).prLen = s.prLen := rfl
@[simp] theorem takeDraws_outLen (s : State) (need : Nat) : (s.takeDraws need).outLen = s.outLen := rfl
@[simp] theorem takeDraws_matN (s : State) (need : Nat) : (s.takeDraws need).matN = s.matN := rfl
@[simp] theorem takeDraws_matT (s : State) (need : Nat) : (s.takeDraws need).matT = s.matT := rfl
@[simp] theorem takeDraws_slen (s : State) (need : Nat) : (s.takeDraws need).slen = s.slen := rfl
@[simp] theorem takeDraws_mem (s : State) (need : Nat) : (s.takeDraws need).mem = s.mem := rfl
@[simp] theorem takeDraws_coef (s : State) (need : Nat) : (s.takeDraws need).coef = s.coef := rfl
@[simp] theorem takeDraws_held (s : State) (need : Nat) : (s.takeDraws need).held = s.held ++ s.offers.take (need - s.held.length) := rfl
@[simp] theorem takeDraws_cfg (s : State) (need : Nat) : (s.takeDraws need).cfg = s.cfg := rfl
@[simp] theorem takeDraws_offers (s : State) (need : Nat) : (s.takeDraws need).offers = s.offers.drop (need - s.held.length) := rfl
@[simp] theorem takeDraws_agenda (s : State) (need : Nat) : (s.takeDraws need).agenda = s.agenda := rfl
@[simp] theorem takeDraws_answers (s : State) (need : Nat) : (s.takeDraws need).answers = s.answers := rfl
@[simp] theorem takeDraws_bufEpoch (s : State) (need : Nat) : (s.takeDraws need).bufEpoch = s.bufEpoch := rfl
@[simp] theorem takeDraws_coefEpoch (s : State) (need : Nat) : (s.takeDraws need).coefEpoch = s.coefEpoch := rfl
@[simp] theorem takeDraws_busyReads (s : State) (need : Nat) : (s.takeDraws need).busyReads = s.busyReads := rfl

/-! ### setMaterial -/

@[simp] theorem setMaterial_ie (s : State) (t : Byte) : (s.setMaterial t).ie = s.ie := rfl
@[simp] theorem setMaterial_busy (s : State) (t : Byte) : (s.setMaterial t).busy = s.busy := rfl
@[simp] theorem setMaterial_done (s : State) (t : Byte) : (s.setMaterial t).done = s.done := rfl
@[simp] theorem setMaterial_ovr (s : State) (t : Byte) : (s.setMaterial t).ovr = s.ovr := rfl
@[simp] theorem setMaterial_matValid (s : State) (t : Byte) : (s.setMaterial t).matValid = true := rfl
@[simp] theorem setMaterial_err (s : State) (t : Byte) : (s.setMaterial t).err = s.err := rfl
@[simp] theorem setMaterial_cmd (s : State) (t : Byte) : (s.setMaterial t).cmd = s.cmd := rfl
@[simp] theorem setMaterial_result (s : State) (t : Byte) : (s.setMaterial t).result = s.result := rfl
@[simp] theorem setMaterial_secretLen (s : State) (t : Byte) : (s.setMaterial t).secretLen = s.secretLen := rfl
@[simp] theorem setMaterial_nshares (s : State) (t : Byte) : (s.setMaterial t).nshares = s.nshares := rfl
@[simp] theorem setMaterial_paLen (s : State) (t : Byte) : (s.setMaterial t).paLen = s.paLen := rfl
@[simp] theorem setMaterial_pbLen (s : State) (t : Byte) : (s.setMaterial t).pbLen = s.pbLen := rfl
@[simp] theorem setMaterial_prLen (s : State) (t : Byte) : (s.setMaterial t).prLen = s.prLen := rfl
@[simp] theorem setMaterial_outLen (s : State) (t : Byte) : (s.setMaterial t).outLen = s.outLen := rfl
@[simp] theorem setMaterial_matN (s : State) (t : Byte) : (s.setMaterial t).matN = s.secretLen := rfl
@[simp] theorem setMaterial_matT (s : State) (t : Byte) : (s.setMaterial t).matT = t := rfl
@[simp] theorem setMaterial_slen (s : State) (t : Byte) : (s.setMaterial t).slen = s.slen := rfl
@[simp] theorem setMaterial_mem (s : State) (t : Byte) : (s.setMaterial t).mem = s.mem := rfl
@[simp] theorem setMaterial_coef (s : State) (t : Byte) : (s.setMaterial t).coef = materialCells t.toNat s.held 0 s.secretBytes := rfl
@[simp] theorem setMaterial_held (s : State) (t : Byte) : (s.setMaterial t).held = s.held := rfl
@[simp] theorem setMaterial_cfg (s : State) (t : Byte) : (s.setMaterial t).cfg = s.cfg := rfl
@[simp] theorem setMaterial_offers (s : State) (t : Byte) : (s.setMaterial t).offers = s.offers := rfl
@[simp] theorem setMaterial_agenda (s : State) (t : Byte) : (s.setMaterial t).agenda = s.agenda := rfl
@[simp] theorem setMaterial_answers (s : State) (t : Byte) : (s.setMaterial t).answers = s.answers := rfl
@[simp] theorem setMaterial_bufEpoch (s : State) (t : Byte) : (s.setMaterial t).bufEpoch = s.bufEpoch := rfl
@[simp] theorem setMaterial_coefEpoch (s : State) (t : Byte) : (s.setMaterial t).coefEpoch = s.coefEpoch + 1 := rfl
@[simp] theorem setMaterial_busyReads (s : State) (t : Byte) : (s.setMaterial t).busyReads = s.busyReads := rfl

/-! ### writeStatus -/

@[simp] theorem writeStatus_ie (s : State) (v : Word) : (s.writeStatus v).ie = s.ie := rfl
@[simp] theorem writeStatus_busy (s : State) (v : Word) : (s.writeStatus v).busy = s.busy := rfl
@[simp] theorem writeStatus_done (s : State) (v : Word) : (s.writeStatus v).done = (s.done && !v.getLsbD 1) := rfl
@[simp] theorem writeStatus_ovr (s : State) (v : Word) : (s.writeStatus v).ovr = (s.ovr && !v.getLsbD 2) := rfl
@[simp] theorem writeStatus_matValid (s : State) (v : Word) : (s.writeStatus v).matValid = s.matValid := rfl
@[simp] theorem writeStatus_err (s : State) (v : Word) : (s.writeStatus v).err = s.err := rfl
@[simp] theorem writeStatus_cmd (s : State) (v : Word) : (s.writeStatus v).cmd = s.cmd := rfl
@[simp] theorem writeStatus_result (s : State) (v : Word) : (s.writeStatus v).result = s.result := rfl
@[simp] theorem writeStatus_secretLen (s : State) (v : Word) : (s.writeStatus v).secretLen = s.secretLen := rfl
@[simp] theorem writeStatus_nshares (s : State) (v : Word) : (s.writeStatus v).nshares = s.nshares := rfl
@[simp] theorem writeStatus_paLen (s : State) (v : Word) : (s.writeStatus v).paLen = s.paLen := rfl
@[simp] theorem writeStatus_pbLen (s : State) (v : Word) : (s.writeStatus v).pbLen = s.pbLen := rfl
@[simp] theorem writeStatus_prLen (s : State) (v : Word) : (s.writeStatus v).prLen = s.prLen := rfl
@[simp] theorem writeStatus_outLen (s : State) (v : Word) : (s.writeStatus v).outLen = s.outLen := rfl
@[simp] theorem writeStatus_matN (s : State) (v : Word) : (s.writeStatus v).matN = s.matN := rfl
@[simp] theorem writeStatus_matT (s : State) (v : Word) : (s.writeStatus v).matT = s.matT := rfl
@[simp] theorem writeStatus_slen (s : State) (v : Word) : (s.writeStatus v).slen = s.slen := rfl
@[simp] theorem writeStatus_mem (s : State) (v : Word) : (s.writeStatus v).mem = s.mem := rfl
@[simp] theorem writeStatus_coef (s : State) (v : Word) : (s.writeStatus v).coef = s.coef := rfl
@[simp] theorem writeStatus_held (s : State) (v : Word) : (s.writeStatus v).held = s.held := rfl
@[simp] theorem writeStatus_cfg (s : State) (v : Word) : (s.writeStatus v).cfg = s.cfg := rfl
@[simp] theorem writeStatus_offers (s : State) (v : Word) : (s.writeStatus v).offers = s.offers := rfl
@[simp] theorem writeStatus_agenda (s : State) (v : Word) : (s.writeStatus v).agenda = s.agenda := rfl
@[simp] theorem writeStatus_answers (s : State) (v : Word) : (s.writeStatus v).answers = s.answers := rfl
@[simp] theorem writeStatus_bufEpoch (s : State) (v : Word) : (s.writeStatus v).bufEpoch = s.bufEpoch := rfl
@[simp] theorem writeStatus_coefEpoch (s : State) (v : Word) : (s.writeStatus v).coefEpoch = s.coefEpoch := rfl
@[simp] theorem writeStatus_busyReads (s : State) (v : Word) : (s.writeStatus v).busyReads = s.busyReads := rfl

/-! ### answer -/

@[simp] theorem answer_ie (s : State) (a : Answer) : (s.answer a).ie = s.ie := rfl
@[simp] theorem answer_busy (s : State) (a : Answer) : (s.answer a).busy = s.busy := rfl
@[simp] theorem answer_done (s : State) (a : Answer) : (s.answer a).done = s.done := rfl
@[simp] theorem answer_ovr (s : State) (a : Answer) : (s.answer a).ovr = s.ovr := rfl
@[simp] theorem answer_matValid (s : State) (a : Answer) : (s.answer a).matValid = s.matValid := rfl
@[simp] theorem answer_err (s : State) (a : Answer) : (s.answer a).err = s.err := rfl
@[simp] theorem answer_cmd (s : State) (a : Answer) : (s.answer a).cmd = s.cmd := rfl
@[simp] theorem answer_result (s : State) (a : Answer) : (s.answer a).result = s.result := rfl
@[simp] theorem answer_secretLen (s : State) (a : Answer) : (s.answer a).secretLen = s.secretLen := rfl
@[simp] theorem answer_nshares (s : State) (a : Answer) : (s.answer a).nshares = s.nshares := rfl
@[simp] theorem answer_paLen (s : State) (a : Answer) : (s.answer a).paLen = s.paLen := rfl
@[simp] theorem answer_pbLen (s : State) (a : Answer) : (s.answer a).pbLen = s.pbLen := rfl
@[simp] theorem answer_prLen (s : State) (a : Answer) : (s.answer a).prLen = s.prLen := rfl
@[simp] theorem answer_outLen (s : State) (a : Answer) : (s.answer a).outLen = s.outLen := rfl
@[simp] theorem answer_matN (s : State) (a : Answer) : (s.answer a).matN = s.matN := rfl
@[simp] theorem answer_matT (s : State) (a : Answer) : (s.answer a).matT = s.matT := rfl
@[simp] theorem answer_slen (s : State) (a : Answer) : (s.answer a).slen = s.slen := rfl
@[simp] theorem answer_mem (s : State) (a : Answer) : (s.answer a).mem = s.mem := rfl
@[simp] theorem answer_coef (s : State) (a : Answer) : (s.answer a).coef = s.coef := rfl
@[simp] theorem answer_held (s : State) (a : Answer) : (s.answer a).held = s.held := rfl
@[simp] theorem answer_cfg (s : State) (a : Answer) : (s.answer a).cfg = s.cfg := rfl
@[simp] theorem answer_offers (s : State) (a : Answer) : (s.answer a).offers = s.offers := rfl
@[simp] theorem answer_agenda (s : State) (a : Answer) : (s.answer a).agenda = s.agenda := rfl
@[simp] theorem answer_answers (s : State) (a : Answer) : (s.answer a).answers = a :: s.answers := rfl
@[simp] theorem answer_bufEpoch (s : State) (a : Answer) : (s.answer a).bufEpoch = s.bufEpoch := rfl
@[simp] theorem answer_coefEpoch (s : State) (a : Answer) : (s.answer a).coefEpoch = s.coefEpoch := rfl
@[simp] theorem answer_busyReads (s : State) (a : Answer) : (s.answer a).busyReads = s.busyReads := rfl

/-! ### afterReset -/

@[simp] theorem afterReset_ie (s : State) : (s.afterReset).ie = false := rfl
@[simp] theorem afterReset_busy (s : State) : (s.afterReset).busy = false := rfl
@[simp] theorem afterReset_done (s : State) : (s.afterReset).done = false := rfl
@[simp] theorem afterReset_ovr (s : State) : (s.afterReset).ovr = false := rfl
@[simp] theorem afterReset_matValid (s : State) : (s.afterReset).matValid = false := rfl
@[simp] theorem afterReset_err (s : State) : (s.afterReset).err = .ok := rfl
@[simp] theorem afterReset_cmd (s : State) : (s.afterReset).cmd = 0 := rfl
@[simp] theorem afterReset_result (s : State) : (s.afterReset).result = 0 := rfl
@[simp] theorem afterReset_secretLen (s : State) : (s.afterReset).secretLen = 0 := rfl
@[simp] theorem afterReset_nshares (s : State) : (s.afterReset).nshares = 0 := rfl
@[simp] theorem afterReset_paLen (s : State) : (s.afterReset).paLen = 0 := rfl
@[simp] theorem afterReset_pbLen (s : State) : (s.afterReset).pbLen = 0 := rfl
@[simp] theorem afterReset_prLen (s : State) : (s.afterReset).prLen = 0 := rfl
@[simp] theorem afterReset_outLen (s : State) : (s.afterReset).outLen = 0 := rfl
@[simp] theorem afterReset_matN (s : State) : (s.afterReset).matN = 0 := rfl
@[simp] theorem afterReset_matT (s : State) : (s.afterReset).matT = 0 := rfl
@[simp] theorem afterReset_slen (s : State) : (s.afterReset).slen = [] := rfl
@[simp] theorem afterReset_mem (s : State) : (s.afterReset).mem = [] := rfl
@[simp] theorem afterReset_coef (s : State) : (s.afterReset).coef = [] := rfl
@[simp] theorem afterReset_held (s : State) : (s.afterReset).held = [] := rfl
@[simp] theorem afterReset_cfg (s : State) : (s.afterReset).cfg = s.cfg := rfl
@[simp] theorem afterReset_offers (s : State) : (s.afterReset).offers = s.offers := rfl
@[simp] theorem afterReset_agenda (s : State) : (s.afterReset).agenda = s.agenda := rfl
@[simp] theorem afterReset_answers (s : State) : (s.afterReset).answers = s.answers := rfl
@[simp] theorem afterReset_bufEpoch (s : State) : (s.afterReset).bufEpoch = s.bufEpoch + 1 := rfl
@[simp] theorem afterReset_coefEpoch (s : State) : (s.afterReset).coefEpoch = s.coefEpoch + 1 := rfl
@[simp] theorem afterReset_busyReads (s : State) : (s.afterReset).busyReads = s.busyReads := rfl

end Sys2Proof.Machine
end

