-- ==== Sys2Proof/Laws/Memory.lean ====
section
/-! SUPPORT. Reading buffers, SLEN and COEF after the operations that write them. -/

namespace Sys2Proof.Machine

/-- A byte read depends on the memory and the reset epoch only. -/
theorem byteAt_congr {s t : State} (hm : t.mem = s.mem) (he : t.bufEpoch = s.bufEpoch) (a : Nat) :
    t.byteAt a = s.byteAt a := by
  simp [State.byteAt, hm, he]

/-- What a byte reads as after a run of writes to consecutive buffer words. -/
theorem byteAt_of_writeFrom {s t : State} {base : Nat} {l : List Byte}
    (hm : t.mem = Memory.writeFrom s.mem base l) (he : t.bufEpoch = s.bufEpoch) (a : Nat) :
    t.byteAt a =
      if base ≤ a ∧ (a - base) % 4 = 0 ∧ (a - base) / 4 < l.length then l.getD ((a - base) / 4) 0#8 else s.byteAt a := by
  simp only [State.byteAt, hm, he, Memory.find_writeFrom]
  split_ifs with h
  · simp [List.getElem?_eq_getElem h.2.2]
  · rfl

theorem byteAt_of_writeFrom_self {s t : State} {base : Nat} {l : List Byte}
    (hm : t.mem = Memory.writeFrom s.mem base l) (he : t.bufEpoch = s.bufEpoch) {k : Nat} (hk : k < l.length) :
    t.byteAt (base + 4 * k) = l.getD k 0#8 := by
  rw [byteAt_of_writeFrom hm he, if_pos (by omega)]
  congr 1; omega

theorem byteAt_of_writeFrom_other {s t : State} {base : Nat} {l : List Byte}
    (hm : t.mem = Memory.writeFrom s.mem base l) (he : t.bufEpoch = s.bufEpoch) {a : Nat}
    (ha : ∀ k, k < l.length → a ≠ base + 4 * k) : t.byteAt a = s.byteAt a := by
  rw [byteAt_of_writeFrom hm he, if_neg]
  rintro ⟨h1, h2, h3⟩
  exact ha _ h3 (by omega)

@[simp] theorem bytesFrom_length (s : State) (base n : Nat) : (s.bytesFrom base n).length = n := by
  simp [State.bytesFrom]

theorem bytesFrom_getElem? (s : State) (base n k : Nat) :
    (s.bytesFrom base n)[k]? = if k < n then some (s.byteAt (base + 4 * k)) else none := by
  simp only [State.bytesFrom, List.getElem?_map]
  split_ifs with h
  · simp [List.getElem?_range h]
  · simp [h]

theorem bytesFrom_getD (s : State) (base n k : Nat) :
    (s.bytesFrom base n).getD k 0#8 = if k < n then s.byteAt (base + 4 * k) else 0#8 := by
  rw [List.getD_eq_getElem?_getD, bytesFrom_getElem?]
  split_ifs <;> rfl

@[simp] theorem slenAt_setSlen (s : State) (i j : Nat) (v : Half) :
    (s.setSlen i v).slenAt j = if j = i then v else s.slenAt j := by
  simp only [State.slenAt, setSlen_slen]
  split_ifs with h1 h2 h2
  · simp [Cells.find_drop, h1, h2]
  · simp [Cells.find_drop, h2]
  · simp [h2]
  · simp [Cells.find_put, h2]

/-- SLEN keeps its canonical form: strictly rising indices and no zero entry. -/
theorem wf_setSlen {s : State} (h : Cells.wf s.slen) (i : Nat) (v : Half) : Cells.wf (s.setSlen i v).slen := by
  simp only [setSlen_slen]
  split_ifs
  · exact Cells.wf_drop h i
  · exact Cells.wf_put h i v

/-- The keys of the material of positions p, p+1, … lie at 255 p and above. -/
theorem materialCells_key_ge {t : Nat} {draws secret : List Byte} {p : Nat} {c : Nat × Byte}
    (h : c ∈ materialCells t draws p secret) : 255 * p ≤ c.1 := by
  induction secret generalizing p with
  | nil => cases h
  | cons b secret ih =>
    rcases List.mem_append.1 h with h | h
    · obtain ⟨k, -, rfl⟩ := List.mem_map.1 h; simp [coefKey]
    · have := ih h; omega

/-- The material is in canonical form for every threshold a command can carry. -/
theorem wf_materialCells {t : Nat} (ht : t ≤ 255) (draws : List Byte) (p : Nat) (secret : List Byte) :
    Memory.wf (materialCells t draws p secret) := by
  induction secret generalizing p with
  | nil => exact List.Pairwise.nil
  | cons b secret ih =>
    rw [materialCells, Memory.wf, Cells.wf, List.map_append, List.pairwise_append]
    refine ⟨?_, ih (p + 1), ?_⟩
    · rw [List.map_map, List.pairwise_map]
      exact List.pairwise_lt_range.imp fun h => by simp only [Function.comp, coefKey]; omega
    · intro x hx y hy
      simp only [List.map_map, List.mem_map, List.mem_range, Function.comp] at hx
      obtain ⟨k, hk, rfl⟩ := hx
      obtain ⟨c, hc, rfl⟩ := List.mem_map.1 hy
      have := materialCells_key_ge hc
      simp only [coefKey]; omega

/-- What the material holds at COEF[p][k]: the secret byte, or the drawn byte of 42_splitter R162's order. -/
theorem find_materialCells {t : Nat} (ht : t ≤ 255) (draws secret : List Byte) {q p k : Nat} (hq : q ≤ p)
    (hp : p - q < secret.length) (hk : k < t) :
    Cells.find (materialCells t draws q secret) (coefKey p k) =
      some (if k = 0 then secret.getD (p - q) 0#8 else draws.getD (p * (t - 1) + (k - 1)) 0#8) := by
  have hwf := wf_materialCells ht draws q secret
  apply Cells.find_of_mem hwf
  clear hwf
  induction secret generalizing q with
  | nil => simp at hp
  | cons b secret ih =>
    rw [materialCells]
    rcases Nat.eq_or_lt_of_le hq with rfl | hlt
    · refine List.mem_append_left _ (List.mem_map.2 ⟨k, List.mem_range.2 hk, ?_⟩)
      simp
    · refine List.mem_append_right _ ?_
      have h1 : p - q = (p - (q + 1)) + 1 := by omega
      have := ih (q := q + 1) (by omega) (by simp only [List.length_cons] at hp; omega)
      rwa [h1, List.getD_cons_succ]

@[simp] theorem points_length (s : State) (k p : Nat) : (s.points k p).length = k := by simp [State.points]

@[simp] theorem mkshare_length (s : State) (id : Byte) : (s.mkshare id).length = s.matN.toNat + 1 := by
  simp [State.mkshare]

@[simp] theorem materialPoly_length (s : State) (p : Nat) : (s.materialPoly p).length = s.matT.toNat := by
  simp [State.materialPoly]

end Sys2Proof.Machine
end

