-- ==== Sys2Proof/Laws/Polynomial.lean ====
section
/-! SUPPORT. Lengths and coefficients of the polynomial engine's and the Lagrange core's results. -/

namespace Sys2Proof.Machine

@[simp] theorem padd_length (a b : List Byte) : (padd a b).length = max a.length b.length := by simp [padd]

/-- Coefficient k of a sum, operands read 0 beyond their length (41_polynomial R141). -/
theorem padd_getD (a b : List Byte) (k : Nat) : (padd a b).getD k 0#8 = a.getD k 0#8 ^^^ b.getD k 0#8 := by
  simp only [padd, List.getD_eq_getElem?_getD, List.getElem?_map, gfAdd]
  by_cases h : k < max a.length b.length
  · simp [List.getElem?_range h]
  · rw [List.getElem?_eq_none (by simpa using h), List.getElem?_eq_none (by omega), List.getElem?_eq_none (by omega)]
    rfl

@[simp] theorem pmulTerm_length (a : List Byte) (j : Nat) (c : Byte) : (pmulTerm a j c).length = j + a.length := by
  simp [pmulTerm]

theorem pmulLoop_length (a : List Byte) (j : Nat) (b acc : List Byte) :
    (pmulLoop a j b acc).length = if b = [] then acc.length else max acc.length (j + a.length + b.length - 1) := by
  induction b generalizing j acc with
  | nil => simp [pmulLoop]
  | cons c b ih =>
    rw [pmulLoop, ih]
    cases b with
    | nil => simp
    | cons d b => simp only [reduceCtorEq, if_false, padd_length, pmulTerm_length, List.length_cons]; omega

/-- The length of a product (41_polynomial R142). -/
theorem pmul_length (a b : List Byte) :
    (pmul a b).length = if a.length = 0 ∨ b.length = 0 then 0 else a.length + b.length - 1 := by
  simp only [pmul]
  split_ifs with h
  · rfl
  · rw [pmulLoop_length, if_neg (by rintro rfl; simp at h)]
    simp

theorem basisLoop_length {xi : Byte} {i j : Nat} {pts : List (Byte × Byte)} {acc l : List Byte} (h0 : 0 < acc.length)
    (h : basisLoop xi i j pts acc = some l) :
    l.length = acc.length + pts.length - (if j ≤ i ∧ i < j + pts.length then 1 else 0) := by
  induction pts generalizing j acc with
  | nil =>
    simp only [basisLoop, Option.some.injEq] at h
    rw [if_neg (by simp only [List.length_nil]; omega), h]; simp
  | cons p pts ih =>
    obtain ⟨xj, yj⟩ := p
    simp only [basisLoop] at h
    split_ifs at h with hj
    · rw [ih h0 h, if_neg (by omega), if_pos (by simp only [List.length_cons]; omega)]
      simp only [List.length_cons]; omega
    · split at h
      · rename_i c0 c1 h1 h2
        have hl : (pmul acc [c0, c1]).length = acc.length + 1 := by
          rw [pmul_length, if_neg (by simp only [List.length_cons, List.length_nil]; omega)]; rfl
        rw [ih (by omega) h, hl]
        by_cases hi : j + 1 ≤ i ∧ i < j + 1 + pts.length
        · rw [if_pos hi, if_pos (by simp only [List.length_cons]; omega)]; simp only [List.length_cons]; omega
        · rw [if_neg hi, if_neg (by simp only [List.length_cons]; omega)]; simp only [List.length_cons]; omega
      · cases h

theorem lagrangeLoop_length {pts : List (Byte × Byte)} {i : Nat} {rest : List (Byte × Byte)} {acc r : List Byte}
    (hi : i + rest.length = pts.length) (h : lagrangeLoop pts i rest acc = some r) :
    r.length = if rest = [] then acc.length else max acc.length pts.length := by
  induction rest generalizing i acc with
  | nil => simp only [lagrangeLoop, Option.some.injEq] at h; simp [h]
  | cons q rest ih =>
    obtain ⟨xi, yi⟩ := q
    simp only [lagrangeLoop] at h
    split at h
    · rename_i l hl
      simp only [List.length_cons] at hi
      have hlen : l.length = pts.length := by
        rw [basisLoop_length (by simp) hl, if_pos (by omega)]
        simp
      have hp : (pmul l [yi]).length = pts.length := by
        rw [pmul_length, hlen, List.length_singleton, if_neg (by omega)]
        omega
      rw [ih (by omega) h, padd_length, hp, if_neg (List.cons_ne_nil (xi, yi) rest)]
      split_ifs <;> omega
    · cases h

/-- "The result has length exactly k" (43_recoverer R180). -/
theorem lagrange_length {pts : List (Byte × Byte)} {r : List Byte} (h : lagrange pts = some r) :
    r.length = pts.length := by
  rw [lagrangeLoop_length (by simp) h]
  split_ifs with h0 <;> simp [h0]

/-- RECOVER gathers one byte per payload position. -/
theorem recoverBytes_length {s : State} {k n : Nat} {sec : List Byte} (h : s.recoverBytes k n = some sec) :
    sec.length = n := by
  induction n generalizing sec with
  | zero => simp only [State.recoverBytes, Option.some.injEq] at h; simp [← h]
  | succ n ih =>
    simp only [State.recoverBytes] at h
    split at h
    · rename_i sec' r h1 h2
      simp only [Option.some.injEq] at h
      rw [← h, List.length_append, ih h1]; rfl
    · cases h

end Sys2Proof.Machine
end

