-- ==== Sys2Proof/Laws/Exec.lean ====
section
/-! SUPPORT. All that a command, the core's turn and a step can do. -/

namespace Sys2Proof.Machine

/-- The shapes of a command's next state. The bounds are the range checks of the command's rule. -/
inductive Effect (i : Instr) (s : State) : State → Prop
  | failed (e : ErrCode) (he : e ≠ .ok) : Effect i s (finish e s)
  | plain : Effect i s (finish .ok s)
  | result (v : Byte) : Effect i s (finish .ok (s.setResult v))
  | pr (r : List Byte) (hr : r.length ≤ s.cfg.pcap) : Effect i s (finish .ok (s.setPr r))
  | prResult (r : List Byte) (v : Byte) (hr : r.length ≤ s.cfg.kmax) :
      Effect i s (finish .ok ((s.setPr r).setResult v))
  | share (l : List Byte) (hm : s.matValid = true) (hl : l.length = s.matN.toNat + 1) :
      Effect i s (finish .ok (s.setOut l))
  | secret (l : List Byte) (hl : l.length ≤ s.cfg.nmax) : Effect i s (finish .ok (s.setOut l))
  | wait (T : Byte) (hi : i = .split T) (hT : T ≠ 0#8) (hn : s.secretLen.toNat ≤ s.cfg.nmax)
      (hw : s.held.length + s.offers.length < s.splitNeed T) : Effect i s (s.takeDraws (s.splitNeed T))
  | material (T : Byte) (hi : i = .split T) (hT : T ≠ 0#8) (hn : s.secretLen.toNat ≤ s.cfg.nmax)
      (hw : s.splitNeed T ≤ s.held.length + s.offers.length) :
      Effect i s (finish .ok ((s.takeDraws (s.splitNeed T)).setMaterial T))

/-- How many bytes are held after a turn of the random-source port. -/
theorem takeDraws_held_length_lt (s : State) (need : Nat) :
    (s.takeDraws need).held.length < need ↔ s.held.length + s.offers.length < need := by
  simp only [takeDraws_held, List.length_append, List.length_take]
  omega

/-- A completion of SPLIT, as one of the two ways it can go once its checks pass. -/
theorem execSplit_eq {T : Byte} {s : State} (hT : T ≠ 0#8) (hn : s.secretLen.toNat ≤ s.cfg.nmax) :
    execSplit T s =
      if s.held.length + s.offers.length < s.splitNeed T then .next (s.takeDraws (s.splitNeed T))
      else .next (finish .ok ((s.takeDraws (s.splitNeed T)).setMaterial T)) := by
  rw [execSplit, if_neg hT, if_neg (by omega)]
  simp only [takeDraws_held_length_lt, complete_eq]

theorem execGfDiv_effect (a b : Byte) (s : State) : ∃ t, execGfDiv a b s = .next t ∧ Effect (.gfDiv a b) s t := by
  rw [execGfDiv]
  cases gfDiv a b with
  | none => exact ⟨_, rfl, .failed .divisionByZero (by decide)⟩
  | some q => exact ⟨_, rfl, .result q⟩

theorem execPolyAdd_effect (s : State) : ∃ t, execPolyAdd s = .next t ∧ Effect .polyAdd s t := by
  rw [execPolyAdd]
  by_cases h : s.polyLensOk = true
  · rw [if_neg (by simpa using h)]
    refine ⟨_, rfl, .pr _ ?_⟩
    simp only [State.polyLensOk, Bool.and_eq_true, decide_eq_true_eq] at h
    rw [padd_length, State.polyA, State.polyB, bytesFrom_length, bytesFrom_length]
    omega
  · rw [if_pos h]; exact ⟨_, rfl, .failed .operandRange (by decide)⟩

theorem execPolyMul_effect (s : State) : ∃ t, execPolyMul s = .next t ∧ Effect .polyMul s t := by
  rw [execPolyMul]
  by_cases h : s.polyLensOk = true
  · rw [if_neg (by simpa using h)]
    by_cases h' : 0 < s.paLen.toNat ∧ 0 < s.pbLen.toNat ∧ s.cfg.pcap < s.paLen.toNat + s.pbLen.toNat - 1
    · rw [if_pos h']; exact ⟨_, rfl, .failed .operandRange (by decide)⟩
    · rw [if_neg h']
      refine ⟨_, rfl, .pr _ ?_⟩
      rw [pmul_length, State.polyA, State.polyB, bytesFrom_length, bytesFrom_length]
      split_ifs <;> omega
  · rw [if_pos h]; exact ⟨_, rfl, .failed .operandRange (by decide)⟩

theorem execPolyEval_effect (x : Byte) (s : State) :
    ∃ t, execPolyEval x s = .next t ∧ Effect (.polyEval x) s t := by
  rw [execPolyEval]
  by_cases h : s.cfg.pcap < s.paLen.toNat
  · rw [if_pos h]; exact ⟨_, rfl, .failed .operandRange (by decide)⟩
  · rw [if_neg h]; exact ⟨_, rfl, .result _⟩

theorem execSplit_effect (T : Byte) (s : State) : ∃ t, execSplit T s = .next t ∧ Effect (.split T) s t := by
  by_cases hT : T = 0#8
  · rw [execSplit, if_pos hT]; exact ⟨_, rfl, .failed .invalidThreshold (by decide)⟩
  by_cases hn : s.cfg.nmax < s.secretLen.toNat
  · rw [execSplit, if_neg hT, if_pos hn]; exact ⟨_, rfl, .failed .operandRange (by decide)⟩
  rw [execSplit_eq hT (by omega)]
  by_cases hw : s.held.length + s.offers.length < s.splitNeed T
  · rw [if_pos hw]; exact ⟨_, rfl, .wait T rfl hT (by omega) hw⟩
  · rw [if_neg hw]; exact ⟨_, rfl, .material T rfl hT (by omega) (by omega)⟩

theorem execGetShare_effect (id : Byte) (s : State) :
    ∃ t, execGetShare id s = .next t ∧ Effect (.getShare id) s t := by
  rw [execGetShare]
  by_cases h1 : id = 0#8
  · rw [if_pos h1]; exact ⟨_, rfl, .failed .invalidShareId (by decide)⟩
  rw [if_neg h1]
  by_cases h2 : s.matValid = false
  · rw [if_pos h2]; exact ⟨_, rfl, .failed .noMaterial (by decide)⟩
  · rw [if_neg h2]; exact ⟨_, rfl, .share _ (by simpa using h2) (mkshare_length s id)⟩

theorem execIsValid_effect (slot : Byte) (s : State) :
    ∃ t, execIsValid slot s = .next t ∧ Effect (.isValid slot) s t := by
  rw [execIsValid]
  by_cases h1 : s.cfg.kmax ≤ slot.toNat
  · rw [if_pos h1]; exact ⟨_, rfl, .failed .operandRange (by decide)⟩
  rw [if_neg h1]
  by_cases h2 : s.cfg.nmax + 1 < (s.slenAt slot.toNat).toNat
  · rw [if_pos h2]; exact ⟨_, rfl, .failed .operandRange (by decide)⟩
  rw [if_neg h2]
  by_cases h3 : s.matValid = false
  · rw [if_pos h3]; exact ⟨_, rfl, .failed .noMaterial (by decide)⟩
  · rw [if_neg h3]; exact ⟨_, rfl, .result _⟩

theorem execLagrange_effect (p : Half) (s : State) :
    ∃ t, execLagrange p s = .next t ∧ Effect (.lagrange p) s t := by
  simp only [execLagrange]
  by_cases h1 : s.cfg.kmax < s.nshares.toNat
  · rw [if_pos h1]; exact ⟨_, rfl, .failed .operandRange (by decide)⟩
  rw [if_neg h1]
  by_cases h2 : s.slotTooLong s.nshares.toNat = true
  · rw [if_pos h2]; exact ⟨_, rfl, .failed .operandRange (by decide)⟩
  rw [if_neg h2]
  by_cases h3 : ((List.range s.nshares.toNat).any fun i => decide ((s.slenAt i).toNat ≤ p.toNat)) = true
  · rw [if_pos h3]; exact ⟨_, rfl, .failed .operandRange (by decide)⟩
  rw [if_neg h3]
  cases hr : lagrange (s.points s.nshares.toNat p.toNat) with
  | none => exact ⟨_, rfl, .failed .divisionByZero (by decide)⟩
  | some r =>
    refine ⟨_, rfl, .prResult r _ ?_⟩
    rw [lagrange_length hr, points_length]
    omega

theorem execRecover_effect (T : Byte) (s : State) :
    ∃ t, execRecover T s = .next t ∧ Effect (.recover T) s t := by
  simp only [execRecover]
  by_cases h1 : s.cfg.kmax < s.nshares.toNat
  · rw [if_pos h1]; exact ⟨_, rfl, .failed .operandRange (by decide)⟩
  rw [if_neg h1]
  by_cases h2 : s.nshares.toNat = 0 ∨ s.nshares.toNat < T.toNat
  · rw [if_pos h2]; exact ⟨_, rfl, .failed .insufficientShares (by decide)⟩
  rw [if_neg h2]
  by_cases h3 : s.slotTooLong s.nshares.toNat = true
  · rw [if_pos h3]; exact ⟨_, rfl, .failed .operandRange (by decide)⟩
  rw [if_neg h3]
  by_cases h4 : ((List.range s.nshares.toNat).any fun i => decide (s.slenAt i = 0#16)) = true
  · rw [if_pos h4]; exact ⟨_, rfl, .failed .emptyShare (by decide)⟩
  rw [if_neg h4]
  by_cases h5 : ¬ (s.slotIds s.nshares.toNat).Nodup
  · rw [if_pos h5]; exact ⟨_, rfl, .failed .duplicateShareId (by decide)⟩
  rw [if_neg h5]
  by_cases h6 : ((List.range s.nshares.toNat).any fun i => decide (s.slenAt i ≠ s.slenAt 0)) = true
  · rw [if_pos h6]; exact ⟨_, rfl, .failed .mismatchedShareLength (by decide)⟩
  rw [if_neg h6]
  cases hs : s.recoverBytes s.nshares.toNat ((s.slenAt 0).toNat - 1) with
  | none => exact ⟨_, rfl, .failed .divisionByZero (by decide)⟩
  | some sec =>
    refine ⟨_, rfl, .secret sec ?_⟩
    rw [recoverBytes_length hs]
    simp only [State.slotTooLong, List.any_eq_true, List.mem_range, decide_eq_true_eq, not_exists, not_and] at h3
    have := h3 0 (by omega)
    omega

/-- Every command answers a next state of one of the shapes. -/
theorem exec_effect (i : Instr) (s : State) : ∃ t, exec i s = .next t ∧ Effect i s t := by
  cases i with
  | nop => exact ⟨_, rfl, .plain⟩
  | gfAdd a b => exact ⟨_, rfl, .result _⟩
  | gfSub a b => exact ⟨_, rfl, .result _⟩
  | gfMul a b => exact ⟨_, rfl, .result _⟩
  | gfDiv a b => exact execGfDiv_effect a b s
  | polyAdd => exact execPolyAdd_effect s
  | polyMul => exact execPolyMul_effect s
  | polyEval x => exact execPolyEval_effect x s
  | split T => exact execSplit_effect T s
  | getShare id => exact execGetShare_effect id s
  | isValid slot => exact execIsValid_effect slot s
  | lagrange p => exact execLagrange_effect p s
  | recover T => exact execRecover_effect T s

/-- What a command's next state must be. -/
theorem effect_of_exec {i : Instr} {s t : State} (h : exec i s = .next t) : Effect i s t := by
  obtain ⟨u, hu, he⟩ := exec_effect i s
  rw [hu] at h
  cases h
  exact he

/-- All that the core's turn can do. -/
theorem coreTurn_cases {s t : State} (h : coreTurn s = .next t) :
    (s.busy = false ∧ t = s) ∨
    (s.busy = true ∧ ∃ i, decode s.cmd = .instr i ∧ exec i s = .next t) ∨
    (s.busy = true ∧ ∃ why, decode s.cmd = .illegal why ∧ t = finish .illegalCommand s) := by
  simp only [coreTurn, completeInFlight] at h
  split_ifs at h with hb
  · split at h
    · rename_i i hi; exact .inr (.inl ⟨hb, i, hi, h⟩)
    · rename_i why hw; cases h; exact .inr (.inr ⟨hb, why, hw, rfl⟩)
  · cases h; exact .inl ⟨by simpa using hb, rfl⟩

/-- All that a step can do: the core's turn, or one external event. -/
theorem step_cases {s t : State} (h : step s = .next t) :
    (s.agenda = [] ∧ coreTurn s = .next t) ∨
    (∃ rest, s.agenda = .core :: rest ∧ coreTurn { s with agenda := rest } = .next t) ∨
    (∃ e rest, e ≠ .core ∧ s.agenda = e :: rest ∧ t = external e { s with agenda := rest }) := by
  rw [step] at h
  split at h
  · rename_i ha; exact .inl ⟨ha, h⟩
  · rename_i rest ha; exact .inr (.inl ⟨rest, ha, h⟩)
  · rename_i e rest hne ha
    cases h
    exact .inr (.inr ⟨e, rest, hne, ha, rfl⟩)

/-- The step of a state whose agenda begins with the core's turn. -/
theorem step_core {s : State} {rest : List Event} (h : s.agenda = .core :: rest) :
    step s = coreTurn { s with agenda := rest } := by rw [step, h]

/-- The step of a state with nothing to come. -/
theorem step_nil {s : State} (h : s.agenda = []) : step s = coreTurn s := by rw [step, h]

/-- The step of a state whose agenda begins with an external event. -/
theorem step_external {s : State} {e : Event} {rest : List Event} (he : e ≠ .core) (h : s.agenda = e :: rest) :
    step s = .next (external e { s with agenda := rest }) := by
  rw [step, h]
  cases e <;> first | rfl | exact absurd rfl he

/-- What a reset leaves in the core (70_reset R240). -/
theorem hasResetValues_afterReset (s : State) : s.afterReset.HasResetValues := by
  constructor
  case slen => exact fun _ => rfl
  case statusWord => simp [State.statusWord, ErrCode.code]
  all_goals rfl

end Sys2Proof.Machine
end

