-- ==== Sys2Proof/Laws/Field.lean ====
section
/-! SUPPORT. What the ROMs and the field operations give, so that later proofs unfold neither. -/

namespace Sys2Proof.Machine

/-- EXP undoes LOG on nonzero bytes (40_field R122). -/
theorem expRom_logRom {a : Byte} (ha : a ≠ 0#8) : expRom (logRom a) = a := by
  have h : ∀ n, n < 256 → BitVec.ofNat 8 n ≠ 0#8 → expRom (logRom (BitVec.ofNat 8 n)) = BitVec.ofNat 8 n := by
    decide +kernel
  simpa using h a.toNat a.isLt (by simpa using ha)

/-- EXP visits nonzero bytes only (40_field R120). -/
theorem expRom_ne_zero {i : Nat} (hi : i < 255) : expRom i ≠ 0#8 := by
  have h : ∀ i, i < 255 → expRom i ≠ 0#8 := by decide +kernel
  exact h i hi

@[simp] theorem gfMul_zero_left (a : Byte) : gfMul 0#8 a = 0#8 := by simp [gfMul]
@[simp] theorem gfMul_zero_right (a : Byte) : gfMul a 0#8 = 0#8 := by simp [gfMul]

/-- The product of nonzero bytes (40_field R126). -/
theorem gfMul_of_ne_zero {a b : Byte} (ha : a ≠ 0#8) (hb : b ≠ 0#8) :
    gfMul a b = expRom ((logRom a + logRom b) % 255) := by
  rw [gfMul, if_neg (by simp [ha, hb])]

@[simp] theorem gfDiv_zero_left (b : Byte) : gfDiv 0#8 b = some 0#8 := by simp [gfDiv]

/-- Division fails exactly here (40_field R127). -/
theorem gfDiv_eq_none {a b : Byte} : gfDiv a b = none ↔ a ≠ 0#8 ∧ b = 0#8 := by
  unfold gfDiv
  split_ifs <;> simp_all

end Sys2Proof.Machine
end

