-- ==== Sys2Proof/Laws/PerInstr.lean ====
section
/-! SUPPORT. The family Asm: every command's assembler line passes the assembler's check and names the command again
(30_encoding R97). -/

namespace Sys2Proof.Laws.Asm

open Sys2Proof

/-- What the family says of one command. -/
def Statement (i : Instr) : Prop := i.wellFormed ∧ i.toAsm.instr.isSome = true

theorem nop : Statement .nop := ⟨by decide, by decide⟩
theorem gfAdd (a b : Byte) : Statement (.gfAdd a b) := by
  simp [Statement, Instr.wellFormed, Instr.toAsm, AsmLine.wellFormed, AsmLine.instr, Mnemonic.format, a.isLt, b.isLt]
theorem gfSub (a b : Byte) : Statement (.gfSub a b) := by
  simp [Statement, Instr.wellFormed, Instr.toAsm, AsmLine.wellFormed, AsmLine.instr, Mnemonic.format, a.isLt, b.isLt]
theorem gfMul (a b : Byte) : Statement (.gfMul a b) := by
  simp [Statement, Instr.wellFormed, Instr.toAsm, AsmLine.wellFormed, AsmLine.instr, Mnemonic.format, a.isLt, b.isLt]
theorem gfDiv (a b : Byte) : Statement (.gfDiv a b) := by
  simp [Statement, Instr.wellFormed, Instr.toAsm, AsmLine.wellFormed, AsmLine.instr, Mnemonic.format, a.isLt, b.isLt]
theorem polyAdd : Statement .polyAdd := ⟨by decide, by decide⟩
theorem polyMul : Statement .polyMul := ⟨by decide, by decide⟩
theorem polyEval (x : Byte) : Statement (.polyEval x) := by
  simp [Statement, Instr.wellFormed, Instr.toAsm, AsmLine.wellFormed, AsmLine.instr, Mnemonic.format, x.isLt]
theorem split (t : Byte) : Statement (.split t) := by
  simp [Statement, Instr.wellFormed, Instr.toAsm, AsmLine.wellFormed, AsmLine.instr, Mnemonic.format, t.isLt]
theorem getShare (id : Byte) : Statement (.getShare id) := by
  simp [Statement, Instr.wellFormed, Instr.toAsm, AsmLine.wellFormed, AsmLine.instr, Mnemonic.format, id.isLt]
theorem isValid (slot : Byte) : Statement (.isValid slot) := by
  simp [Statement, Instr.wellFormed, Instr.toAsm, AsmLine.wellFormed, AsmLine.instr, Mnemonic.format, slot.isLt]
theorem lagrange (p : Half) : Statement (.lagrange p) := by
  simp [Statement, Instr.wellFormed, Instr.toAsm, AsmLine.wellFormed, AsmLine.instr, Mnemonic.format, p.isLt]
theorem recover (t : Byte) : Statement (.recover t) := by
  simp [Statement, Instr.wellFormed, Instr.toAsm, AsmLine.wellFormed, AsmLine.instr, Mnemonic.format, t.isLt]

end Sys2Proof.Laws.Asm
end

