-- ==== Sys2Proof/Laws/Window.lean ====
section
/-! SUPPORT. The host window: where the map leads, and all that one access can do. -/

namespace Sys2Proof.Machine

/-- In a legal configuration the element named at an element's own offset is that element. -/
theorem bufAt_offset {c : Config} (hc : c.legal) {b : Buf} (hb : b.inRange c = true) : bufAt b.offset = b := by
  obtain ⟨⟨-, hn⟩, ⟨-, hk⟩, -, hp⟩ := hc
  obtain ⟨off, ho⟩ : ∃ off, b.offset = off := ⟨_, rfl⟩
  rw [ho, bufAt]
  cases b <;> simp only [Buf.inRange, Bool.and_eq_true, decide_eq_true_eq] at hb <;> simp only [Buf.offset] at ho
  case secret p => rw [if_pos (by omega)]; congr; omega
  case out p => rw [if_neg (by omega), if_pos (by omega)]; congr; omega
  case pa p => rw [if_neg (by omega), if_neg (by omega), if_pos (by omega)]; congr; omega
  case pb p => rw [if_neg (by omega), if_neg (by omega), if_neg (by omega), if_pos (by omega)]; congr; omega
  case pr p =>
    rw [if_neg (by omega), if_neg (by omega), if_neg (by omega), if_neg (by omega), if_pos (by omega)]; congr; omega
  case share i p =>
    rw [if_neg (by omega), if_neg (by omega), if_neg (by omega), if_neg (by omega), if_neg (by omega)]
    congr <;> omega

/-- Elements of a configuration lie at different offsets. -/
theorem offset_injective {c : Config} (hc : c.legal) {b b' : Buf} (hb : b.inRange c = true) (hb' : b'.inRange c = true)
    (h : b.offset = b'.offset) : b = b' := by
  rw [← bufAt_offset hc hb, ← bufAt_offset hc hb', h]

/-- An aligned offset from 0x010000 on that names an element is that element's offset. -/
theorem offset_bufAt {off : Nat} (h0 : 0x010000 ≤ off) (h4 : off % 4 = 0) : (bufAt off).offset = off := by
  simp only [bufAt]
  split_ifs <;> simp only [Buf.offset] <;> omega

/-- What a location answered by the map must be (20_memory R61). -/
theorem locate_cases {c : Config} {off : Nat} {l : Loc} (h : locate c off = some l) :
    (∃ r, l = .reg r ∧ regMap[off / 4]? = some r ∧ off < 0x001000) ∨
    (∃ i, l = .slen i ∧ i < c.kmax ∧ 0x001000 ≤ off ∧ off < 0x010000 ∧ i = (off - 0x001000) / 4) ∨
    (∃ b, l = .buf b ∧ b = bufAt off ∧ b.inRange c = true ∧ 0x010000 ≤ off) := by
  simp only [locate] at h
  split_ifs at h with h1 h2 h3 h4
  · obtain ⟨r, hr, rfl⟩ := Option.map_eq_some_iff.1 h
    exact .inl ⟨r, rfl, hr, h1⟩
  · cases h; exact .inr (.inl ⟨_, rfl, h3, by omega, h2, rfl⟩)
  · cases h; exact .inr (.inr ⟨_, rfl, rfl, h4, by omega⟩)

/-- The location of an element (20_memory R61). -/
theorem locate_offset {c : Config} (hc : c.legal) {b : Buf} (hb : b.inRange c = true) :
    locate c b.offset = some (.buf b) := by
  have h0 : 0x010000 ≤ b.offset := by cases b <;> simp only [Buf.offset] <;> omega
  rw [locate, if_neg (by omega), if_neg (by omega), bufAt_offset hc hb, if_pos hb]

theorem offset_mod_four (b : Buf) : b.offset % 4 = 0 := by
  cases b <;> simp only [Buf.offset] <;> omega

/-- All that a read can do. -/
theorem memRead_cases {off w : Nat} {s t : State} {a : Answer} (h : memRead off w s = (a, t)) :
    (a = .busError ∧ t = s ∧ (w ≠ 4 ∨ off % 4 ≠ 0 ∨ locate s.cfg off = none)) ∨
    ∃ l, w = 4 ∧ off % 4 = 0 ∧ locate s.cfg off = some l ∧
      ((s.busy = true ∧ l.readableBusy = false ∧ a = .readOk (Config.busyReadDraw s.busyReads) ∧
          t = { s with busyReads := s.busyReads + 1 }) ∨
        ((s.busy = false ∨ l.readableBusy = true) ∧ a = .readOk (s.locValue l) ∧ t = s)) := by
  simp only [memRead] at h
  split_ifs at h with h1
  · cases h; exact .inl ⟨rfl, rfl, h1.imp_right .inl⟩
  · simp only [not_or, not_not] at h1
    split at h
    · rename_i hl; cases h; exact .inl ⟨rfl, rfl, .inr (.inr hl)⟩
    · rename_i l hl
      refine .inr ⟨l, h1.1, h1.2, hl, ?_⟩
      split_ifs at h with h2
      · cases h; simp only [Bool.and_eq_true, Bool.not_eq_true'] at h2; exact .inl ⟨h2.1, h2.2, rfl, rfl⟩
      · cases h
        refine .inr ⟨?_, rfl, rfl⟩
        revert h2; cases s.busy <;> cases l.readableBusy <;> simp

/-- All that a write can do. -/
theorem memWrite_cases {off w : Nat} {v : Word} {s t : State} {a : Answer} (h : memWrite off w v s = (a, t)) :
    (a = .busError ∧ t = s ∧ (w ≠ 4 ∨ off % 4 ≠ 0 ∨ locate s.cfg off = none)) ∨
    ∃ l, w = 4 ∧ off % 4 = 0 ∧ locate s.cfg off = some l ∧ a = .writeOk ∧
      ((s.busy = true ∧ l.writableBusy = false ∧ t = { s with ovr := true }) ∨
        ((s.busy = false ∨ l.writableBusy = true) ∧ t = s.writeLoc l v)) := by
  simp only [memWrite] at h
  split_ifs at h with h1
  · cases h; exact .inl ⟨rfl, rfl, h1.imp_right .inl⟩
  · simp only [not_or, not_not] at h1
    split at h
    · rename_i hl; cases h; exact .inl ⟨rfl, rfl, .inr (.inr hl)⟩
    · rename_i l hl
      refine .inr ⟨l, h1.1, h1.2, hl, ?_⟩
      split_ifs at h with h2
      · cases h; simp only [Bool.and_eq_true, Bool.not_eq_true'] at h2; exact ⟨rfl, .inl ⟨h2.1, h2.2, rfl⟩⟩
      · cases h
        refine ⟨rfl, .inr ⟨?_, rfl⟩⟩
        revert h2; cases s.busy <;> cases l.writableBusy <;> simp

/-- A read changes at most the draw counter. -/
theorem memRead_changes (off w : Nat) (s : State) :
    ∃ n, (memRead off w s).2 = { s with busyReads := n } := by
  rcases memRead_cases (Prod.mk.eta (p := memRead off w s)).symm with ⟨-, h, -⟩ | ⟨l, -, -, -, h | h⟩
  · exact ⟨_, h⟩
  · exact ⟨_, h.2.2.2⟩
  · exact ⟨_, h.2.2⟩

/-- A host read changes at most the answers and the draw counter. -/
theorem hostRead_changes (addr w : Nat) (s : State) :
    ∃ l n, hostRead addr w s = { s with answers := l, busyReads := n } := by
  rw [hostRead]
  split
  · exact ⟨_, _, rfl⟩
  · rename_i off _
    obtain ⟨n, h⟩ := memRead_changes off w s
    rw [h]
    exact ⟨_, _, rfl⟩

/-- A turn of WAIT changes at most the agenda, the answers and the draw counter. -/
theorem hostPoll_changes (s : State) :
    ∃ g l n, hostPoll s = { s with agenda := g, answers := l, busyReads := n } := by
  obtain ⟨l, n, h⟩ := hostRead_changes (s.cfg.base + 0x000010) 4 s
  simp only [hostPoll, h]
  split_ifs
  · exact ⟨_, _, _, rfl⟩
  · exact ⟨_, _, _, rfl⟩

/-- The defined case of a read, forwards. -/
theorem memRead_of_locate {off : Nat} {s : State} {l : Loc} (h4 : off % 4 = 0) (hl : locate s.cfg off = some l)
    (hb : s.busy = false ∨ l.readableBusy = true) : memRead off 4 s = (.readOk (s.locValue l), s) := by
  rw [memRead, if_neg (by omega), hl]
  simp only
  rw [if_neg]
  rcases hb with h | h <;> simp [h]

/-- The effective case of a write, forwards. -/
theorem memWrite_of_locate {off : Nat} {v : Word} {s : State} {l : Loc} (h4 : off % 4 = 0)
    (hl : locate s.cfg off = some l) (hb : s.busy = false ∨ l.writableBusy = true) :
    memWrite off 4 v s = (.writeOk, s.writeLoc l v) := by
  rw [memWrite, if_neg (by omega), hl]
  simp only
  rw [if_neg]
  rcases hb with h | h <;> simp [h]

/-- The dropped case of a write, forwards (70_reset R247). -/
theorem memWrite_dropped {off : Nat} {v : Word} {s : State} {l : Loc} (h4 : off % 4 = 0)
    (hl : locate s.cfg off = some l) (hb : s.busy = true) (hw : l.writableBusy = false) :
    memWrite off 4 v s = (.writeOk, { s with ovr := true }) := by
  rw [memWrite, if_neg (by omega), hl]
  simp [hb, hw]

/-- Every memory a host write leaves is canonical. -/
theorem wf_mem_writeLoc {s : State} (h : Memory.wf s.mem) (l : Loc) (v : Word) : Memory.wf (s.writeLoc l v).mem := by
  cases l with
  | reg r =>
    cases r <;> simp only [State.writeLoc, State.writeReg] <;> try exact h
    simp only [State.writeCtrl]
    split_ifs
    · exact List.Pairwise.nil
    · exact h
  | slen i => exact h
  | buf b =>
    simp only [State.writeLoc]
    split_ifs
    · exact Memory.wf_writeFrom h _ _
    · exact h

end Sys2Proof.Machine
end

