-- ==== Sys2Proof/Tests/Slice0.lean ====
section
/-! SUPPORT. Tests: expected values are written out from 30_encoding and taken from 95_test_vectors. After them, a witness for
the hypotheses of every obligation that has some. -/

namespace Sys2Proof.Tests

set_option Elab.async false

open Sys2Proof Sys2Proof.Machine

/-! ### The assembler's check (30_encoding R97), with an ill-formed line for each clause -/

theorem test_wf_b1_over : (AsmLine.mk .split (.one 256)).wellFormed = false := by decide
theorem test_wf_b2_first_over : (AsmLine.mk .gfMul (.two 256 0)).wellFormed = false := by decide
theorem test_wf_b2_second_over : (AsmLine.mk .gfMul (.two 0 256)).wellFormed = false := by decide
theorem test_wf_x_over : (AsmLine.mk .lagrange (.one 65536)).wellFormed = false := by decide
theorem test_wf_operand_missing : (AsmLine.mk .recover .none).wellFormed = false := by decide
theorem test_wf_operand_extra : (AsmLine.mk .nop (.one 0)).wellFormed = false := by decide
theorem test_wf_accepts :
    (AsmLine.mk .split (.one 255)).wellFormed = true ∧ (AsmLine.mk .lagrange (.one 65535)).wellFormed = true ∧
      (AsmLine.mk .gfDiv (.two 255 0)).wellFormed = true ∧ (AsmLine.mk .polyMul .none).wellFormed = true := by decide

/-! ### Decode: words written out bit by bit from the formats of 30_encoding R91 and the opcodes of R93 -/

theorem test_decode_nop : decode 0b00000000_000000000000000000000000#32 = .instr .nop := by decide
theorem test_decode_gfAdd : decode 0b00000001_01010111_10000011_00000000#32 = .instr (.gfAdd 0x57 0x83) := by decide
theorem test_decode_gfSub : decode 0b00000010_01010011_11001010_00000000#32 = .instr (.gfSub 0x53 0xCA) := by decide
theorem test_decode_gfMul : decode 0b00000011_01010111_10000011_00000000#32 = .instr (.gfMul 0x57 0x83) := by decide
theorem test_decode_gfDiv : decode 0b00000100_01010111_10000011_00000000#32 = .instr (.gfDiv 0x57 0x83) := by decide
theorem test_decode_polyAdd : decode 0b00010000_000000000000000000000000#32 = .instr .polyAdd := by decide
theorem test_decode_polyMul : decode 0b00010001_000000000000000000000000#32 = .instr .polyMul := by decide
theorem test_decode_polyEval : decode 0b00010010_00000010_0000000000000000#32 = .instr (.polyEval 2) := by decide
theorem test_decode_split : decode 0b00100000_00000011_0000000000000000#32 = .instr (.split 3) := by decide
theorem test_decode_getShare : decode 0b00100001_11111111_0000000000000000#32 = .instr (.getShare 255) := by decide
theorem test_decode_isValid : decode 0b00100010_00000001_0000000000000000#32 = .instr (.isValid 1) := by decide
theorem test_decode_lagrange : decode 0b00110000_00000000_1111111111111111#32 = .instr (.lagrange 65535) := by decide
theorem test_decode_recover : decode 0b00110001_00000011_0000000000000000#32 = .instr (.recover 3) := by decide

/-- 95_test_vectors 2.1, the illegal words. -/
theorem test_decode_illegal :
    decode 0x00000001 = .illegal .reservedBits ∧ decode 0x01578301 = .illegal .reservedBits ∧
      decode 0x10000100 = .illegal .reservedBits ∧ decode 0x12020001 = .illegal .reservedBits ∧
      decode 0x30010000 = .illegal .reservedBits ∧ decode 0x05000000 = .illegal .unassignedOpcode ∧
      decode 0xFF000000 = .illegal .unassignedOpcode := by decide

/-- The words of 30_encoding R97's examples. -/
theorem test_encode :
    encode (.gfMul 0x57 0x83) = 0x03578300 ∧ encode (.split 3) = 0x20030000 ∧ encode (.lagrange 1) = 0x30000001 := by decide

theorem test_decodeTableWord :
    decodeTableWord 32 0x03578300 = some (.gfMul 0x57 0x83) ∧ decodeTableWord 32 0x05000000 = none := by decide

/-! ### Small states -/

/-- The state a meaning leaves. -/
def after (o : Out) : State :=
  match o with
  | .next t => t
  | .fault _ => State.reset
  | .refused _ => State.reset

def withPA (l : List Byte) (s : State) : State :=
  { s.storeBytes 0x030000 l with paLen := BitVec.ofNat 16 l.length }

def withPB (l : List Byte) (s : State) : State :=
  { s.storeBytes 0x034000 l with pbLen := BitVec.ofNat 16 l.length }

def withSecret (l : List Byte) (s : State) : State :=
  { s.storeBytes 0x010000 l with secretLen := BitVec.ofNat 16 l.length }

def withSlot (i : Nat) (l : List Byte) (s : State) : State :=
  (s.storeBytes (0x100000 + 0x4000 * i) l).setSlen i (BitVec.ofNat 16 l.length)

/-- A command in flight. -/
def inFlight (i : Instr) (s : State) : State := accept (encode i) s

/-- The material of 42_splitter R161's example, by running SPLIT 2 on "Hi" with the bytes A5, 3C offered. -/
def hi : State := after (exec (.split 2) { withSecret [0x48, 0x69] State.reset with offers := [0xA5, 0x3C] })

/-- The first two payload bytes of the shares of vector V1. -/
def v1 : State :=
  { withSlot 0 [0x01, 0xB8, 0xBE] (withSlot 1 [0x02, 0xE7, 0x6B] (withSlot 2 [0x03, 0x17, 0xB0] State.reset)) with
    nshares := 3 }

/-! ### One step per command (95_test_vectors 2.2 to 2.5, V1, S1) -/

theorem test_nop : (after (step (inFlight .nop { State.reset with err := .noMaterial }))).statusWord = 2 := by decide +kernel
theorem test_gfAdd : (after (exec (.gfAdd 0x57 0x83) State.reset)).result = 0xD4 := by decide +kernel
theorem test_gfSub : (after (exec (.gfSub 0x53 0xCA) State.reset)).result = 0x99 := by decide +kernel
theorem test_gfMul : (after (exec (.gfMul 0x57 0x83) State.reset)).result = 0xC1 := by decide +kernel
theorem test_gfMul_wraps : (after (exec (.gfMul 0x53 0xCA) State.reset)).result = 0x01 := by decide +kernel
theorem test_gfDiv : (after (exec (.gfDiv 0x03 0x53) State.reset)).result = 0x45 := by decide +kernel
theorem test_gfDiv_by_zero :
    (after (exec (.gfDiv 0x57 0) { State.reset with result := 0x57 })).result = 0x57 ∧
      (after (exec (.gfDiv 0x57 0) State.reset)).statusWord = 0x52 ∧
      (after (exec (.gfDiv 0 0) State.reset)).statusWord = 0x02 := by decide +kernel
theorem test_polyAdd : (after (exec .polyAdd (withPA [1, 2, 3] (withPB [4, 5] State.reset)))).polyR = [5, 7, 3] := by
  decide +kernel
theorem test_polyMul_keeps_zeros :
    (after (exec .polyMul (withPA [0x53] (withPB [0xCA, 1, 0] State.reset)))).polyR = [1, 0x53, 0] := by decide +kernel
theorem test_polyMul_range :
    (after (exec .polyMul { State.reset with paLen := 257, pbLen := 257 })).err = .operandRange := by decide +kernel
theorem test_polyEval : (after (exec (.polyEval 0xFF) (withPA [1, 2, 3] State.reset))).result = 0xD1 := by decide +kernel
theorem test_polyEval_range : (after (exec (.polyEval 3) { State.reset with paLen := 513 })).err = .operandRange := by
  decide +kernel
theorem test_split :
    hi.statusWord = 0x0A ∧ hi.matInfoWord = 0x00020002 ∧ hi.offers = [] ∧
      hi.materialPoly 0 = [0x48, 0xA5] ∧ hi.materialPoly 1 = [0x69, 0x3C] := by decide +kernel
theorem test_split_waits :
    (after (exec (.split 3) (inFlight (.split 3) { hi with offers := [0x11] }))).statusWord = 0x09 ∧
      (after (exec (.split 3) (inFlight (.split 3) { hi with offers := [0x11] }))).held = [0x11] := by decide +kernel
theorem test_getShare : (after (exec (.getShare 255) hi)).outBytes = [0xFF, 0xD1, 0xBA] := by decide +kernel
theorem test_getShare_id_first :
    (after (exec (.getShare 0) State.reset)).err = .invalidShareId ∧
      (after (exec (.getShare 5) State.reset)).err = .noMaterial := by decide +kernel
theorem test_isValid : (after (exec (.isValid 0) (withSlot 0 [0x01, 0xED, 0x55] hi))).result = 1 := by decide +kernel
theorem test_isValid_not :
    (after (exec (.isValid 0) (withSlot 0 [0x01, 0xED, 0x54] hi))).result = 0 ∧
      (after (exec (.isValid 0) (withSlot 0 [0x00, 0x48, 0x69] hi))).result = 0 ∧
      (after (exec (.isValid 0) (hi.setSlen 0 258))).err = .operandRange := by decide +kernel
theorem test_lagrange :
    (after (exec (.lagrange 1) v1)).polyR = [0x48, 0x1F, 0xEF] ∧ (after (exec (.lagrange 1) v1)).result = 0x48 := by
  decide +kernel
theorem test_lagrange_errors :
    (after (exec (.lagrange 3) v1)).err = .operandRange ∧
      (after (exec (.lagrange 1) (withSlot 2 [0x01, 0x17, 0xB0] v1))).err = .divisionByZero := by decide +kernel
theorem test_recover : (after (exec (.recover 3) v1)).outBytes = [0x48, 0x65] := by decide +kernel
theorem test_recover_errors :
    (after (exec (.recover 4) v1)).err = .insufficientShares ∧
      (after (exec (.recover 3) (v1.setSlen 1 0))).err = .emptyShare ∧
      (after (exec (.recover 3) (withSlot 2 [0x01, 0x17] v1))).err = .duplicateShareId ∧
      (after (exec (.recover 3) (withSlot 2 [0x03, 0x17] v1))).err = .mismatchedShareLength := by decide +kernel
theorem test_illegal : (after (step (accept 0x01578301 State.reset))).statusWord = 0xA2 := by decide +kernel

/-! ### The host window (95_test_vectors 2.6) -/

theorem test_read_words :
    (memRead 0x000000 4 State.reset).1 = .readOk 0x53530007 ∧ (memRead 0x000004 4 State.reset).1 = .readOk 0x01000100 ∧
      (memRead 0x000008 4 State.reset).1 = .readOk 0x200 := by decide +kernel
theorem test_bus_errors :
    (memRead 0x000038 4 State.reset).1 = .busError ∧ (memRead 0x000010 2 State.reset).1 = .busError ∧
      (memRead 0x000012 4 State.reset).1 = .busError ∧ (memRead 0x001400 4 State.reset).1 = .busError := by decide +kernel
theorem test_write_secret :
    (memRead 0x010000 4 (memWrite 0x010000 4 0x12345641 State.reset).2).1 = .readOk 0x41 := by decide +kernel
theorem test_write_busy :
    (memWrite 0x030000 4 5 (inFlight .nop State.reset)).2.statusWord = 0x05 ∧
      (memWrite 0x030000 4 5 (inFlight .nop State.reset)).2.mem = [] := by decide +kernel
theorem test_clear_done : (memWrite 0x000010 4 2 (after (exec (.gfDiv 0x53 0) hi))).2.statusWord = 0x58 := by
  decide +kernel
theorem test_soft_reset : (memWrite 0x00000C 4 3 (inFlight (.split 3) hi)).2.statusWord = 0 := by decide +kernel

/-- The first step after reset runs the word that withFetchWord places: GF_MUL 0x57, 0x83 (95_test_vectors 2.2). -/
theorem test_withFetchWord : (after (step (State.reset.withFetchWord 32 0x03578300))).result = 0xC1 := by decide +kernel

/-! ### Witnesses: for each obligation with hypotheses, concrete inputs that meet them, clause by clause -/

theorem witness_DecodeOfEncodeIsTheCommand :
    (Instr.lagrange 0xFFFF).wellFormed ∧ (Instr.gfDiv 0xFF 0).wellFormed := by decide

theorem witness_EncodeOfDecodeIsTheWord : decode 0x30FFFFFF ≠ .instr .nop ∧ decode 0x3000FFFF = .instr (.lagrange 0xFFFF) := by
  decide

theorem witness_OpcodeMapSelectsWhatDecodes : ∃ r ∈ opcodeMap, r.selects 0x31FF0000 = true := by
  exact ⟨⟨.recover, 0x31000000, 0xFF00FFFF⟩, by decide, by decide⟩

theorem witness_AssemblerRefusesAndEncodesByTheTable :
    (Mnemonic.split.format = .b1 ∧ 256 ≤ 256) ∧ (Mnemonic.gfMul.format = .b2 ∧ (256 ≤ 255 ∨ 256 ≤ 256)) ∧
      (Mnemonic.lagrange.format = .x ∧ 65536 ≤ 65536) := by decide

/-- An ILLEGAL word in flight. -/
def badWord : State := accept 0x05000000 State.reset

theorem witness_IllegalWordsCompleteWithCodeTen :
    State.reset.busy = false ∧ badWord.busy = true ∧ decode badWord.cmd = .illegal .unassignedOpcode := by decide

theorem witness_CoreTurnRunsTheDecodedCommand :
    ((inFlight (.split 1) State.reset).busy = true ∧
      decode (inFlight (.split 1) State.reset).cmd = .instr (.split 1) ∧ (inFlight (.split 1) State.reset).agenda = []) ∧
    ({ inFlight .nop State.reset with agenda := [.core, .poll] } : State).agenda = .core :: [.poll] ∧
    (badWord.busy = true ∧ decode badWord.cmd = .illegal .unassignedOpcode ∧ badWord.agenda = []) ∧
    decode 0x20FF0000 = .instr (.split 255) := by decide

theorem witness_AcceptanceLatchesTheWord :
    State.reset.busy = false ∧ (inFlight .nop State.reset).busy = true := by decide

theorem witness_IdleCoreChangesNothing :
    (State.reset.busy = false ∧ State.reset.agenda = []) ∧
      (({ State.reset with agenda := [.core] } : State).busy = false ∧
        ({ State.reset with agenda := [.core] } : State).agenda = .core :: []) := by decide

theorem witness_EventsActOneAtATime :
    0xFFFFFF < 0x1000000 ∧
    (∃ s : State, s.agenda = .read (s.cfg.base + 0xFFFFFF) 4 :: []) ∧
    (∃ s : State, s.agenda = .write (s.cfg.base + 0xFFFFFF) 4 7 :: []) ∧
    (∃ s : State, s.agenda = .offer 5 :: []) ∧ (∃ s : State, s.busy = true ∧ s.agenda = .rst :: [.core]) :=
  ⟨by decide, ⟨{ State.reset with agenda := [.read 0xFFFFFF 4] }, rfl⟩,
    ⟨{ State.reset with agenda := [.write 0xFFFFFF 4 7] }, rfl⟩, ⟨{ State.reset with agenda := [.offer 5] }, rfl⟩,
    ⟨{ inFlight .nop State.reset with agenda := [.rst, .core] }, rfl, rfl⟩⟩

theorem witness_FailedCommandChangesOnlyStatus :
    ∃ t, (inFlight (.getShare 0) hi).busy = true ∧ exec (.getShare 0) (inFlight (.getShare 0) hi) = .next t ∧
      t.busy = false ∧ t.err ≠ .ok := ⟨_, rfl, rfl, rfl, by decide +kernel⟩

/-- A reachable state with a command in flight: it has the invariant. -/
theorem inv_inFlight (i : Instr) : (inFlight i State.reset).Inv where
  cfgLegal := by simp [inFlight, accept, State.reset, Config.legal, Config.reference]
  matRange := by simp [inFlight, accept, State.reset]
  prLenRange := by simp [inFlight, accept, State.reset]
  outLenRange := by simp [inFlight, accept, State.reset]
  idleHoldsNothing := by simp [inFlight, accept]
  doneMeansIdle := by simp [inFlight, accept]
  memCanonical := by simp [inFlight, accept, State.reset, Memory.wf, Cells.wf]
  memMapped := by simp [inFlight, accept, State.reset]
  slenCanonical := by simp [inFlight, accept, State.reset, Cells.wf]
  slenMapped := by simp [inFlight, accept, State.reset]
  coefCanonical := by simp [inFlight, accept, State.reset, Memory.wf, Cells.wf]
  materialWritten := by simp [inFlight, accept, State.reset]

/-- After a completion with IE = 1: irq is high. -/
def interrupting : State := { State.reset with ie := true, done := true }

theorem inv_interrupting : interrupting.Inv where
  cfgLegal := by simp [interrupting, State.reset, Config.legal, Config.reference]
  matRange := by simp [interrupting, State.reset]
  prLenRange := by simp [interrupting, State.reset]
  outLenRange := by simp [interrupting, State.reset]
  idleHoldsNothing := by simp [interrupting, State.reset]
  doneMeansIdle := by simp [interrupting, State.reset]
  memCanonical := by simp [interrupting, State.reset, Memory.wf, Cells.wf]
  memMapped := by simp [interrupting, State.reset]
  slenCanonical := by simp [interrupting, State.reset, Cells.wf]
  slenMapped := by simp [interrupting, State.reset]
  coefCanonical := by simp [interrupting, State.reset, Memory.wf, Cells.wf]
  materialWritten := by simp [interrupting, State.reset]

theorem witness_NoCommandWritesWhatTheHostOwns :
    ∃ (s t : State), s.Inv ∧ exec .polyMul s = .next t ∧
      (Buf.pa 511).inRange s.cfg = true ∧ (Buf.pa 511).hostWritable = true :=
  ⟨_, _, inv_inFlight .polyMul, rfl, rfl, rfl⟩

theorem witness_MaterialChangesOnlyBySplitOrReset :
    ∃ t u, step (inFlight (.split 1) State.reset) = .next t ∧ t.matValid = true ∧
      step { hi with agenda := [.write 0x00000C 4 2] } = .next u ∧ u.matValid = false := 
  ⟨_, _, rfl, rfl, rfl, rfl⟩

theorem witness_CommandInFlightCompletes :
    ∃ s : State, s.busy = true ∧ s.agenda = [] ∧ decode s.cmd = .instr (.split 2) ∧ (2 : Byte) ≠ 0#8 ∧
      s.secretLen.toNat ≤ s.cfg.nmax ∧
      s.secretLen.toNat * ((2 : Byte).toNat - 1) = s.held.length + s.offers.length ∧
      ∀ T, decode s.cmd = .instr (.split T) → T ≠ 0#8 → s.secretLen.toNat ≤ s.cfg.nmax →
        s.secretLen.toNat * (T.toNat - 1) ≤ s.held.length + s.offers.length := by
  refine ⟨{ inFlight (.split 2) hi with offers := [7], held := [9] }, rfl, rfl, by decide, by decide, by decide +kernel,
    by decide +kernel, fun T hT _ _ => ?_⟩
  have h : decode (inFlight (.split 2) hi).cmd = .instr (.split 2) := by decide
  have e : T = 2 := by
    have := hT.symm.trans h
    simpa using this
  subst e
  decide +kernel

theorem witness_CompletionCodesAreTheTable :
    ∃ t, (inFlight (.recover 4) v1).busy = true ∧ exec (.recover 4) (inFlight (.recover 4) v1) = .next t ∧
      t.busy = false ∧ t.err = .insufficientShares ∧ badWord.busy = true ∧
      decode badWord.cmd = .illegal .unassignedOpcode := ⟨_, rfl, rfl, rfl, rfl, rfl, rfl⟩

theorem witness_StepKeepsTheInvariant :
    ∃ (s t : State), s.Inv ∧ step s = .next t := ⟨_, _, inv_inFlight (.split 1), rfl⟩

theorem witness_InterruptMeansCompletion :
    (interrupting.Inv ∧ interrupting.irq = true) ∧
      ∃ t, (inFlight .nop interrupting).busy = true ∧ exec .nop (inFlight .nop interrupting) = .next t ∧ t.busy = false :=
  ⟨⟨inv_interrupting, rfl⟩, _, rfl, rfl, rfl⟩

theorem witness_NopOnlyCompletes :
    (0x00FFFFFF : Word).toNat / 2 ^ 24 = 0 ∧ (0x00FFFFFF : Word).toNat % 2 ^ 24 ≠ 0 ∧
      State.reset.matValid = false ∧ State.reset.ovr = false ∧ ∃ t, exec .nop State.reset = .next t :=
  ⟨by decide, by decide, rfl, rfl, _, rfl⟩

theorem witness_GfDivUndoesTheProduct :
    (0xFF : Byte) ≠ 0#8 ∧ (0x00 : Byte) = 0#8 ∧ ((0x01 : Byte) ≠ 0#8 ∧ (0x00 : Byte) = 0#8) := by decide

theorem witness_FieldLawsHold : (0x01 : Byte) ≠ 0#8 ∧ (0xFF : Byte) ≠ 0#8 := by decide

theorem witness_RomsFollowTheirRecurrence : 254 < 255 ∧ 254 ≤ 254 ∧ (0xFF : Byte) ≠ 0#8 := by decide

/-- PA_LEN and PB_LEN at the capacity, and one above it. -/
theorem witness_PolyAddAddsLaneByLane :
    ∃ s s' : State, (s.paLen.toNat ≤ s.cfg.pcap ∧ s.pbLen.toNat ≤ s.cfg.pcap ∧ s.paLen = 512) ∧
      (s'.cfg.pcap < s'.paLen.toNat ∨ s'.cfg.pcap < s'.pbLen.toNat) :=
  ⟨{ State.reset with paLen := 512, pbLen := 512 }, { State.reset with paLen := 513 }, by decide, by decide⟩

/-- A product of the length PCAP, an empty operand, and a product of the length PCAP + 1. -/
theorem witness_PolyMulConvolves :
    ∃ s s₂ s₃ s₄ : State, (s.cfg.legal ∧ s.paLen.toNat ≤ s.cfg.pcap ∧ s.pbLen.toNat ≤ s.cfg.pcap ∧
        s.paLen.toNat + s.pbLen.toNat - 1 = s.cfg.pcap) ∧
      (s₂.cfg.legal ∧ s₂.paLen.toNat ≤ s₂.cfg.pcap ∧ s₂.pbLen.toNat ≤ s₂.cfg.pcap ∧ s₂.pbLen = 0#16) ∧
      (s₃.cfg.legal ∧ s₃.paLen ≠ 0#16 ∧ s₃.pbLen ≠ 0#16 ∧ s₃.cfg.pcap < s₃.paLen.toNat + s₃.pbLen.toNat - 1) ∧
      (s₄.cfg.legal ∧ s₄.cfg.pcap < s₄.paLen.toNat) :=
  ⟨{ State.reset with paLen := 256, pbLen := 257 }, { State.reset with paLen := 3 },
    { State.reset with paLen := 257, pbLen := 257 }, { State.reset with paLen := 513 },
    by decide, by decide, by decide, by decide⟩

theorem witness_PolyEvalSumsThePowers :
    ∃ s s' : State, (s.paLen.toNat ≤ s.cfg.pcap ∧ s.paLen = 512) ∧ s'.cfg.pcap < s'.paLen.toNat :=
  ⟨{ State.reset with paLen := 512 }, { State.reset with paLen := 513 }, by decide, by decide⟩

theorem witness_PolynomialLawsHold : ([0] : List Byte) ≠ [] ∧ ([1, 2] : List Byte) ≠ [] := by decide

/-- A secret of two bytes under the largest threshold, with exactly the 508 random bytes it takes (95_test_vectors 2.4). -/
theorem witness_SplitBuildsTheMaterial :
    ∃ s : State, (255 : Byte) ≠ 0#8 ∧ s.secretLen.toNat ≤ s.cfg.nmax ∧
      s.secretLen.toNat * ((255 : Byte).toNat - 1) = s.held.length + s.offers.length ∧
      (1 < s.secretLen.toNat ∧ 1 ≤ 254 ∧ 254 < (255 : Byte).toNat) :=
  ⟨{ withSecret [0x48, 0x69] State.reset with offers := List.replicate 507 0xA5, held := [0x3C] }, by decide +kernel⟩

theorem witness_SplitFailsOrWaits :
    ∃ s s' : State, (0 : Byte) = 0#8 ∧ ((2 : Byte) ≠ 0#8 ∧ s.cfg.nmax < s.secretLen.toNat) ∧
      ((2 : Byte) ≠ 0#8 ∧ s'.secretLen.toNat ≤ s'.cfg.nmax ∧
        s'.held.length + s'.offers.length < s'.secretLen.toNat * ((2 : Byte).toNat - 1)) :=
  ⟨{ State.reset with secretLen := 257 }, { State.reset with secretLen := 256, offers := [1] }, by decide⟩

theorem witness_GetShareWritesTheShare :
    ((255 : Byte) ≠ 0#8 ∧ hi.matValid = true ∧ hi.matN.toNat < 65535 ∧ 1 < hi.matN.toNat) ∧ (0 : Byte) = 0#8 ∧
      ((1 : Byte) ≠ 0#8 ∧ State.reset.matValid = false) := by decide +kernel

/-- The material of hi, in hi itself and in a state with another SECRET_LEN. -/
theorem witness_GetShareIsDeterministic :
    ∃ s s' : State, s ≠ s' ∧ s.matValid = true ∧ s'.matValid = true ∧ s'.matN = s.matN ∧ s'.matT = s.matT ∧
      (∀ p k, p < s.matN.toNat → k < s.matT.toNat → s'.coefAt p k = s.coefAt p k) ∧ (255 : Byte) ≠ 0#8 :=
  ⟨hi, { hi with secretLen := 0 }, by decide +kernel, rfl, rfl, rfl, rfl, fun _ _ _ _ => rfl, by decide⟩

theorem witness_ThresholdOneSharesTheSecret :
    (State.reset.cfg.legal ∧ State.reset.secretLen.toNat ≤ State.reset.cfg.nmax) ∧
      ((withSecret [0x41, 0x42, 0x43] State.reset).cfg.legal ∧
        (withSecret [0x41, 0x42, 0x43] State.reset).secretLen.toNat ≤ (withSecret [0x41, 0x42, 0x43] State.reset).cfg.nmax) ∧
      (255 : Byte) ≠ 0#8 := by decide +kernel

/-- A matching slot, a slot with one wrong byte, slot index KMAX, a length NMAX + 2, no material. -/
theorem witness_IsValidComparesTheShare :
    ∃ s₁ s₂ s₃ s₄ s₅ : State,
      ((0 : Byte).toNat < s₁.cfg.kmax ∧ (s₁.slenAt (0 : Byte).toNat).toNat ≤ s₁.cfg.nmax + 1 ∧ s₁.matValid = true ∧
        (s₁.slenAt (0 : Byte).toNat).toNat = s₁.matN.toNat + 1 ∧
        s₁.byteAt (Buf.share (0 : Byte).toNat 0).offset ≠ 0#8 ∧
        ∀ p, p < s₁.matN.toNat → s₁.byteAt (Buf.share (0 : Byte).toNat (p + 1)).offset =
          powerSum ((List.range s₁.matT.toNat).map fun k => s₁.coefAt p k) (s₁.byteAt (Buf.share (0 : Byte).toNat 0).offset)) ∧
      ((0 : Byte).toNat < s₂.cfg.kmax ∧ (s₂.slenAt (0 : Byte).toNat).toNat ≤ s₂.cfg.nmax + 1 ∧ s₂.matValid = true ∧
        (s₂.slenAt (0 : Byte).toNat).toNat = s₂.matN.toNat + 1 ∧
        ¬ ∀ p, p < s₂.matN.toNat → s₂.byteAt (Buf.share (0 : Byte).toNat (p + 1)).offset =
          powerSum ((List.range s₂.matT.toNat).map fun k => s₂.coefAt p k) (s₂.byteAt (Buf.share (0 : Byte).toNat 0).offset)) ∧
      s₃.cfg.kmax ≤ (4 : Byte).toNat ∧
      ((0 : Byte).toNat < s₄.cfg.kmax ∧ s₄.cfg.nmax + 1 < (s₄.slenAt (0 : Byte).toNat).toNat) ∧
      ((0 : Byte).toNat < s₅.cfg.kmax ∧ (s₅.slenAt (0 : Byte).toNat).toNat ≤ s₅.cfg.nmax + 1 ∧ s₅.matValid = false) :=
  ⟨withSlot 0 [0x01, 0xED, 0x55] hi, withSlot 0 [0x01, 0xED, 0x54] hi,
    { State.reset with cfg := { Config.reference with kmax := 4 } }, hi.setSlen 0 258, State.reset.setSlen 0 257,
    by decide +kernel, by decide +kernel, by decide +kernel, by decide +kernel, by decide +kernel⟩

/-- Vector V1 at its last payload position here, and the empty point list. -/
theorem witness_LagrangeInterpolatesThePoints :
    (v1.nshares.toNat ≤ v1.cfg.kmax ∧
      (∀ i, i < v1.nshares.toNat → (v1.slenAt i).toNat ≤ v1.cfg.nmax + 1 ∧ (2 : Half).toNat < (v1.slenAt i).toNat) ∧
      (∀ i, i < v1.nshares.toNat → ∀ j, j < v1.nshares.toNat → i < j →
        v1.byteAt (Buf.share i 0).offset ≠ v1.byteAt (Buf.share j 0).offset)) ∧
    State.reset.nshares.toNat = 0 := by decide +kernel

/-- A count of KMAX + 1; a slot length of NMAX + 2; the position SLEN; two equal ids. -/
theorem witness_LagrangeFailsInOrder :
    ∃ s₁ s₂ s₃ s₄ : State, s₁.cfg.kmax < s₁.nshares.toNat ∧
      (s₂.nshares.toNat ≤ s₂.cfg.kmax ∧ 0 < s₂.nshares.toNat ∧ s₂.cfg.nmax + 1 < (s₂.slenAt 0).toNat) ∧
      (s₃.nshares.toNat ≤ s₃.cfg.kmax ∧ 0 < s₃.nshares.toNat ∧ (s₃.slenAt 0).toNat ≤ (3 : Half).toNat) ∧
      (s₄.nshares.toNat ≤ s₄.cfg.kmax ∧
        (∀ i, i < s₄.nshares.toNat → (s₄.slenAt i).toNat ≤ s₄.cfg.nmax + 1 ∧ (1 : Half).toNat < (s₄.slenAt i).toNat) ∧
        2 < s₄.nshares.toNat ∧ s₄.byteAt (Buf.share 0 0).offset = s₄.byteAt (Buf.share 2 0).offset) :=
  ⟨{ State.reset with nshares := 257 }, v1.setSlen 0 258, v1, withSlot 2 [0x01, 0x17, 0xB0] v1,
    by decide +kernel, by decide +kernel, by decide +kernel, by decide +kernel⟩

theorem witness_RecoverReturnsTheConstantTerms :
    v1.nshares.toNat ≤ v1.cfg.kmax ∧ v1.nshares.toNat ≠ 0 ∧ (3 : Byte).toNat ≤ v1.nshares.toNat ∧
      (∀ i, i < v1.nshares.toNat → v1.slenAt i = v1.slenAt 0) ∧ (v1.slenAt 0).toNat ≤ v1.cfg.nmax + 1 ∧
      v1.slenAt 0 ≠ 0#16 ∧
      (∀ i, i < v1.nshares.toNat → ∀ j, j < v1.nshares.toNat → i < j →
        v1.byteAt (Buf.share i 0).offset ≠ v1.byteAt (Buf.share j 0).offset) ∧
      (1 ≤ 2 ∧ 2 < (v1.slenAt 0).toNat) := by decide +kernel

/-- One state per clause, in the order of the statement. -/
theorem witness_RecoverFailsInOrder :
    ∃ s₁ s₂ s₃ s₄ s₅ s₆ : State, s₁.cfg.kmax < s₁.nshares.toNat ∧
      (s₂.nshares.toNat ≤ s₂.cfg.kmax ∧ s₂.nshares.toNat = 0) ∧
      (v1.nshares.toNat ≤ v1.cfg.kmax ∧ v1.nshares.toNat < (4 : Byte).toNat) ∧
      (s₃.nshares.toNat ≤ s₃.cfg.kmax ∧ s₃.nshares.toNat ≠ 0 ∧ (3 : Byte).toNat ≤ s₃.nshares.toNat ∧
        s₃.cfg.nmax + 1 < (s₃.slenAt 1).toNat) ∧
      (s₄.nshares.toNat ≤ s₄.cfg.kmax ∧ s₄.nshares.toNat ≠ 0 ∧ (3 : Byte).toNat ≤ s₄.nshares.toNat ∧
        (∀ i, i < s₄.nshares.toNat → (s₄.slenAt i).toNat ≤ s₄.cfg.nmax + 1) ∧ s₄.slenAt 1 = 0#16) ∧
      (s₅.nshares.toNat ≤ s₅.cfg.kmax ∧ s₅.nshares.toNat ≠ 0 ∧ (3 : Byte).toNat ≤ s₅.nshares.toNat ∧
        (∀ i, i < s₅.nshares.toNat → (s₅.slenAt i).toNat ≤ s₅.cfg.nmax + 1) ∧
        (∀ i, i < s₅.nshares.toNat → s₅.slenAt i ≠ 0#16) ∧
        s₅.byteAt (Buf.share 0 0).offset = s₅.byteAt (Buf.share 2 0).offset) ∧
      (s₆.nshares.toNat ≤ s₆.cfg.kmax ∧ s₆.nshares.toNat ≠ 0 ∧ (3 : Byte).toNat ≤ s₆.nshares.toNat ∧
        (∀ i, i < s₆.nshares.toNat → (s₆.slenAt i).toNat ≤ s₆.cfg.nmax + 1) ∧
        (∀ i, i < s₆.nshares.toNat → s₆.slenAt i ≠ 0#16) ∧
        (∀ i, i < s₆.nshares.toNat → ∀ j, j < s₆.nshares.toNat → i < j →
          s₆.byteAt (Buf.share i 0).offset ≠ s₆.byteAt (Buf.share j 0).offset) ∧
        s₆.slenAt 2 ≠ s₆.slenAt 0) :=
  ⟨{ State.reset with nshares := 257 }, State.reset, v1.setSlen 1 258, v1.setSlen 1 0,
    withSlot 2 [0x01, 0x17, 0xB0] v1, v1.setSlen 2 2,
    by decide +kernel, by decide +kernel, by decide +kernel, by decide +kernel, by decide +kernel, by decide +kernel,
    by decide +kernel⟩

theorem witness_RecoverNeverDividesByZero : ∃ t, exec (.recover 3) v1 = .next t := by
  have h : (match exec (.recover 3) v1 with | .refused _ => true | _ => false) = false := by decide +kernel
  cases e : exec (.recover 3) v1 with
  | next t => exact ⟨t, rfl⟩
  | fault f => cases f
  | refused r => rw [e] at h; simp at h

/-- 95_test_vectors S1 and P2: "Hi" under threshold 2, shares of the ids 2 and 255 loaded into slots 0 and 1. -/
theorem witness_RecoverReturnsTheSplitSecret :
    ∃ s0 s2 : State, s0.cfg.legal ∧ (2 : Byte) ≠ 0#8 ∧ s0.secretLen.toNat ≤ s0.cfg.nmax ∧
      s0.secretLen.toNat * ((2 : Byte).toNat - 1) ≤ s0.held.length + s0.offers.length ∧
      exec (.split 2) s0 = .next hi ∧
      ([2, 255] : List Byte).Nodup ∧ 0#8 ∉ ([2, 255] : List Byte) ∧ (2 : Byte).toNat ≤ ([2, 255] : List Byte).length ∧
      ([2, 255] : List Byte).length ≤ s0.cfg.kmax ∧ s2.cfg = s0.cfg ∧ s2.nshares.toNat = ([2, 255] : List Byte).length ∧
      (∀ i id, ([2, 255] : List Byte)[i]? = some id → (s2.slenAt i).toNat = s0.secretLen.toNat + 1 ∧
        ∃ u, exec (.getShare id) hi = .next u ∧
          ∀ b, b ≤ s0.secretLen.toNat → s2.byteAt (Buf.share i b).offset = u.byteAt (Buf.out b).offset) := by
  refine ⟨{ withSecret [0x48, 0x69] State.reset with offers := [0xA5, 0x3C] },
    { withSlot 0 [0x02, 0x19, 0x11] (withSlot 1 [0xFF, 0xD1, 0xBA] State.reset) with nshares := 2 },
    by decide +kernel, by decide, by decide +kernel, by decide +kernel, rfl, by decide, by decide, by decide, by decide +kernel,
    rfl, by decide, ?_⟩
  rintro (_ | _ | i) id hid
  · obtain rfl : (2 : Byte) = id := by simpa using hid
    refine ⟨by decide +kernel, after (exec (.getShare 2) hi), rfl, ?_⟩
    intro b hb
    have hb : b ≤ 2 := hb
    interval_cases b <;> decide +kernel
  · obtain rfl : (255 : Byte) = id := by simpa using hid
    refine ⟨by decide +kernel, after (exec (.getShare 255) hi), rfl, ?_⟩
    intro b hb
    have hb : b ≤ 2 := hb
    interval_cases b <;> decide +kernel
  · simp at hid

/-- Two states whose slots 0 and 1 are exchanged. -/
theorem witness_InterpolationIgnoresSlotOrder :
    ∃ (s s' : State) (σ : Equiv.Perm (Fin 2)), s.nshares.toNat = 2 ∧ s'.nshares = s.nshares ∧ s'.cfg = s.cfg ∧
      (∀ i : Fin 2, s'.slenAt i = s.slenAt (σ i)) ∧
      (∀ (i : Fin 2) (b : Nat), b ≤ s.cfg.nmax →
        s'.byteAt (Buf.share i b).offset = s.byteAt (Buf.share (σ i) b).offset) ∧
      (after (exec (.recover 2) s)).err = .ok ∧ (after (exec (.lagrange 1) s)).err = .ok := by
  have small : ({ Config.reference with nmax := 1 } : Config).nmax = 1 := rfl
  refine ⟨{ withSlot 0 [0x01, 0x10] (withSlot 1 [0x02, 0x20] State.reset) with
      nshares := 2, cfg := { Config.reference with nmax := 1 } },
    { withSlot 0 [0x02, 0x20] (withSlot 1 [0x01, 0x10] State.reset) with
      nshares := 2, cfg := { Config.reference with nmax := 1 } },
    Equiv.swap 0 1, by decide, rfl, rfl, by decide +kernel, ?_, by decide +kernel, by decide +kernel⟩
  intro i b hb
  have hb : b ≤ 1 := hb
  fin_cases i <;> interval_cases b <;> decide +kernel

theorem witness_WindowMapIsTheTable :
    Config.reference.legal ∧ 0x5000FC % 4 = 0 ∧ 255 < Config.reference.kmax ∧
      (Buf.share 255 256).inRange Config.reference = true := by decide

theorem witness_BusErrorsChangeNothing :
    (2 ≠ 4 ∨ 0x10 % 4 ≠ 0) ∧ (4 ≠ 4 ∨ 0x12 % 4 ≠ 0) ∧ locate Config.reference 0x000038 = none ∧
      locate Config.reference 0x001400 = none ∧ locate Config.reference 0x010400 = none := by decide +kernel

theorem witness_BufferWordsHoldOneByte :
    State.reset.cfg.legal ∧ State.reset.busy = false ∧ (Buf.share 255 256).inRange State.reset.cfg = true ∧
      (Buf.share 255 256).hostWritable = true ∧ (Buf.out 256).inRange State.reset.cfg = true ∧
      Buf.out 256 ≠ Buf.share 255 256 := by decide

theorem witness_LengthRegistersHoldSixteenBits :
    State.reset.busy = false ∧ State.reset.cfg.legal ∧ 255 < State.reset.cfg.kmax ∧ 254 ≠ 255 := by decide

theorem witness_ReadOnlyWordsIgnoreWrites :
    State.reset.busy = false ∧ State.reset.cfg.legal ∧ (Buf.pr 511).inRange State.reset.cfg = true ∧
      (Buf.pr 511).hostWritable = false ∧ (0xFFFFFFFD : Word).getLsbD 1 = false := by decide

theorem witness_IdentificationWordsRead : State.reset.cfg.legal ∧ State.reset.busy = false := by decide

theorem witness_BusyWritesAreDropped :
    (inFlight .nop State.reset).busy = true ∧
      (4 = 4 ∧ 0x4FC400 % 4 = 0 ∧ locate Config.reference 0x4FC400 ≠ none ∧ 0x4FC400 ≠ 0x00000C ∧ 0x4FC400 ≠ 0x000010) ∧
      (1 : Word).getLsbD 1 = false ∧ (2 : Word).getLsbD 1 = true ∧ (4 ≠ 4 ∨ 0x13 % 4 ≠ 0) := by decide +kernel

theorem witness_ReadsHaveNoEffect :
    State.reset.busy = false ∧ (inFlight .nop State.reset).busy = true ∧
      (4 = 4 ∧ 0x000018 % 4 = 0 ∧ locate Config.reference 0x000018 ≠ none ∧ 0x000018 ≤ 0x000018) := by decide

theorem witness_SoftResetGivesTheResetState : (0xFFFFFFFF : Word).getLsbD 1 = true := by decide

theorem witness_OperandsAreStableWhileBusy :
    ∃ t, (inFlight .nop State.reset).busy = true ∧
      external (.write 0x010000 4 7) (inFlight .nop State.reset) = t ∧ t.busy = true ∧ t.ovr = true :=
  ⟨_, rfl, rfl, by decide +kernel, by decide +kernel⟩

theorem witness_MaterialIsInvisible :
    ∃ t t', exec (.split 2) { hi with offers := [1, 2] } = .next t ∧
      exec (.split 2) { { hi with offers := [1, 2] } with coef := [(0, 9)], coefEpoch := 5 } = .next t' :=
  ⟨_, _, rfl, rfl⟩

theorem witness_RngReadyOnlyWhileSplitNeedsBytes :
    ∃ s : State, (s.rngReady = true ∧ s.agenda = []) ∧
      (s.busy = true ∧ decode s.cmd = .instr (.split 2) ∧ (2 : Byte) ≠ 0#8 ∧ s.secretLen.toNat ≤ s.cfg.nmax ∧
        s.held.length + 1 = s.secretLen.toNat * ((2 : Byte).toNat - 1)) :=
  ⟨{ inFlight (.split 2) hi with held := [9] }, by decide +kernel, by decide +kernel⟩

theorem witness_WaitPollsUntilIdle :
    (({ State.reset with agenda := [.poll] } : State).agenda = .poll :: [] ∧
      ({ State.reset with agenda := [.poll] } : State).busy = false) ∧
    (({ inFlight .nop State.reset with agenda := [.poll] } : State).agenda = .poll :: [] ∧
      ({ inFlight .nop State.reset with agenda := [.poll] } : State).busy = true) := by decide

end Sys2Proof.Tests
end

/-! # Proofs: the state of the core (10_state)

The invariant and what keeps it, the frame of a command, the material, the register words of the host window, and the output
rng_ready. -/

namespace Sys2Proof.Machine

/-! ### Operations that keep the invariant -/

/-- Bits and lists outside the invariant's clauses may take any value. -/
theorem State.Inv.environment {s : State} (h : s.Inv) (ie ovr : Bool) (offers : List Byte) (agenda : List Event)
    (answers : List Answer) (n : Nat) :
    ({ s with ie := ie, ovr := ovr, offers := offers, agenda := agenda, answers := answers, busyReads := n } : State).Inv :=
  { h with }

theorem State.Inv.answer {s : State} (h : s.Inv) (a : Answer) : (s.answer a).Inv :=
  h.environment s.ie s.ovr s.offers s.agenda (a :: s.answers) s.busyReads

/-- A completion holds no byte, and it is idle when it raises DONE. -/
theorem State.Inv.finish {s : State} (h : s.Inv) (e : ErrCode) : (finish e s).Inv :=
  { h with idleHoldsNothing := fun _ => rfl, doneMeansIdle := fun _ => rfl }

theorem State.Inv.accept {s : State} (h : s.Inv) (w : Word) : (accept w s).Inv :=
  { h with idleHoldsNothing := fun hb => by simp at hb, doneMeansIdle := fun hd => by simp at hd }

theorem State.Inv.writeStatus {s : State} (h : s.Inv) (v : Word) : (s.writeStatus v).Inv :=
  { h with doneMeansIdle := fun hd => h.doneMeansIdle (Bool.and_eq_true_iff.1 hd).1 }

theorem State.Inv.setResult {s : State} (h : s.Inv) (v : Byte) : (s.setResult v).Inv := { h with }

/-- A SPLIT in flight may hold bytes. -/
theorem State.Inv.takeDraws {s : State} (h : s.Inv) (hb : s.busy = true) (need : Nat) : (s.takeDraws need).Inv :=
  { h with idleHoldsNothing := fun hi => by simp [hb] at hi }

/-- A reset keeps the configuration, and the empty lists meet every other clause. -/
theorem State.Inv.afterReset {s : State} (hc : s.cfg.legal) : s.afterReset.Inv where
  cfgLegal := hc
  matRange hv := by simp at hv
  prLenRange := by simp
  outLenRange := by simp
  idleHoldsNothing _ := rfl
  doneMeansIdle _ := rfl
  memCanonical := List.Pairwise.nil
  memMapped c hc := by simp at hc
  slenCanonical := List.Pairwise.nil
  slenMapped c hc := by simp at hc
  coefCanonical := List.Pairwise.nil
  materialWritten hv := by simp at hv

/-- A run of writes to existing buffer words. -/
theorem State.Inv.storeBytes {s : State} (h : s.Inv) {base : Nat} {l : List Byte}
    (hl : ∀ k, k < l.length → ∃ b : Buf, b.inRange s.cfg = true ∧ b.offset = base + 4 * k) :
    (s.storeBytes base l).Inv :=
  { h with
    memCanonical := Memory.wf_writeFrom h.memCanonical base l
    memMapped := fun c hc => by
      rcases Memory.mem_writeFrom hc with hold | ⟨k, hk, he⟩
      · exact h.memMapped c hold
      · rw [he]; exact hl k hk }

theorem State.Inv.setPr {s : State} (h : s.Inv) {r : List Byte} (hr : r.length ≤ s.cfg.pcap) : (s.setPr r).Inv :=
  have hst : (s.storeBytes (Buf.pr 0).offset r).Inv :=
    h.storeBytes fun k hk => ⟨.pr k, by simpa [Buf.inRange] using hk.trans_le hr, rfl⟩
  { hst with prLenRange := (Nat.mod_le _ _).trans hr }

theorem State.Inv.setOut {s : State} (h : s.Inv) {l : List Byte} (hl : l.length ≤ s.cfg.nmax + 1) : (s.setOut l).Inv :=
  have hst : (s.storeBytes (Buf.out 0).offset l).Inv :=
    h.storeBytes fun k hk => ⟨.out k, by simpa [Buf.inRange] using Nat.le_of_lt_succ (hk.trans_le hl), rfl⟩
  { hst with outLenRange := (Nat.mod_le _ _).trans hl }

/-- SLEN lists nonzero entries of existing slots only: a zero is taken out, another value is put in. -/
theorem State.Inv.setSlen {s : State} (h : s.Inv) {i : Nat} (hi : i < s.cfg.kmax) (v : Half) : (s.setSlen i v).Inv :=
  { h with
    slenCanonical := wf_setSlen h.slenCanonical i v
    slenMapped := fun c hc => by
      rw [setSlen_slen] at hc
      split_ifs at hc with hv
      · exact h.slenMapped c (Cells.mem_drop hc)
      · rcases Cells.mem_put hc with rfl | hold
        · exact ⟨hi, hv⟩
        · exact h.slenMapped c hold }

/-- SPLIT's commit writes every entry of the live material, within the ranges its checks allow. -/
theorem State.Inv.setMaterial {s : State} (h : s.Inv) {T : Byte} (hT : T ≠ 0#8) (hn : s.secretLen.toNat ≤ s.cfg.nmax) :
    (s.setMaterial T).Inv :=
  have hT1 : 1 ≤ T.toNat := Nat.one_le_iff_ne_zero.2 fun h0 => hT (BitVec.eq_of_toNat_eq h0)
  have hT255 : T.toNat ≤ 255 := Nat.le_of_lt_succ T.isLt
  { h with
    matRange := fun _ => ⟨hn, hT1, hT255⟩
    coefCanonical := wf_materialCells hT255 _ _ _
    materialWritten := fun _ p k hp hk => by
      have hlen : p - 0 < s.secretBytes.length := by simpa [State.secretBytes] using hp
      rw [setMaterial_coef, find_materialCells hT255 _ _ p.zero_le hlen hk]
      rfl }

/-! ### Every step keeps the invariant -/

/-- A command in flight keeps the invariant, whichever of its shapes its effect has. -/
theorem State.Inv.effect {i : Instr} {s t : State} (h : s.Inv) (hb : s.busy = true) (he : Effect i s t) : t.Inv := by
  cases he with
  | failed e he => exact h.finish e
  | plain => exact h.finish .ok
  | result v => exact (h.setResult v).finish .ok
  | pr r hr => exact (h.setPr hr).finish .ok
  | prResult r v hr =>
    have hk : s.cfg.kmax ≤ s.cfg.pcap := h.cfgLegal.2.2.1
    exact ((h.setPr (hr.trans hk)).setResult v).finish .ok
  | share l hm hl =>
    have hn : s.matN.toNat ≤ s.cfg.nmax := (h.matRange hm).1
    exact (h.setOut (by omega)).finish .ok
  | secret l hl => exact (h.setOut (by omega)).finish .ok
  | wait T hi hT hn hw => exact h.takeDraws hb _
  | material T hi hT hn hw => exact ((h.takeDraws hb _).setMaterial hT hn).finish .ok

theorem State.Inv.coreTurn {s t : State} (h : s.Inv) (ht : coreTurn s = .next t) : t.Inv := by
  rcases coreTurn_cases ht with ⟨-, rfl⟩ | ⟨hb, i, -, hx⟩ | ⟨-, why, -, rfl⟩
  · exact h
  · exact h.effect hb (effect_of_exec hx)
  · exact h.finish .illegalCommand

theorem State.Inv.writeCtrl {s : State} (h : s.Inv) (v : Word) : (s.writeCtrl v).Inv := by
  rw [State.writeCtrl]
  split_ifs
  · exact .afterReset h.cfgLegal
  · exact h.environment _ s.ovr s.offers s.agenda s.answers s.busyReads

theorem State.Inv.writeReg {s : State} (h : s.Inv) (r : Reg) (v : Word) : (s.writeReg r v).Inv := by
  cases r with
  | ctrl => exact h.writeCtrl v
  | status => exact h.writeStatus v
  | cmd => exact h.accept v
  | secretLen | nshares | paLen | pbLen => exact { h with }
  | id | param0 | param1 | result | prLen | outLen | matInfo => exact h

/-- A write to any word that the map names. -/
theorem State.Inv.writeLoc {s : State} (h : s.Inv) {off : Nat} {l : Loc} (hl : locate s.cfg off = some l) (v : Word) :
    (s.writeLoc l v).Inv := by
  rcases locate_cases hl with ⟨r, rfl, -, -⟩ | ⟨i, rfl, hi, -, -, -⟩ | ⟨b, rfl, -, hb, -⟩
  · exact h.writeReg r v
  · exact h.setSlen hi _
  · rw [State.writeLoc]
    split_ifs
    · refine h.storeBytes fun k hk => ⟨b, hb, ?_⟩
      have hk0 : k = 0 := by simpa using hk
      rw [hk0]
      rfl
    · exact h

theorem State.Inv.memWrite {s : State} (h : s.Inv) (off w : Nat) (v : Word) : (memWrite off w v s).2.Inv := by
  rcases memWrite_cases (Prod.mk.eta (p := Machine.memWrite off w v s)).symm with
    ⟨-, ht, -⟩ | ⟨l, -, -, hl, -, ⟨-, -, ht⟩ | ⟨-, ht⟩⟩
  · rwa [ht]
  · rw [ht]; exact h.environment s.ie true s.offers s.agenda s.answers s.busyReads
  · rw [ht]; exact h.writeLoc hl v

theorem State.Inv.hostWrite {s : State} (h : s.Inv) (addr w : Nat) (v : Word) : (hostWrite addr w v s).Inv := by
  rw [Machine.hostWrite]
  split
  · exact h.answer _
  · exact (h.memWrite _ w v).answer _

theorem State.Inv.external {s : State} (h : s.Inv) (e : Event) : (external e s).Inv := by
  cases e with
  | read addr w =>
    obtain ⟨l, n, hr⟩ := hostRead_changes addr w s
    rw [Machine.external, hr]
    exact h.environment s.ie s.ovr s.offers s.agenda l n
  | write addr w v => exact h.hostWrite addr w v
  | poll =>
    obtain ⟨g, l, n, hp⟩ := hostPoll_changes s
    rw [Machine.external, hp]
    exact h.environment s.ie s.ovr s.offers g l n
  | offer b => exact h.environment s.ie s.ovr _ s.agenda s.answers s.busyReads
  | rst => exact .afterReset h.cfgLegal
  | core => exact h

/-- The step takes its event off the agenda first, which no clause of the invariant sees. -/
theorem State.Inv.step {s t : State} (h : s.Inv) (ht : step s = .next t) : t.Inv := by
  have hrest (rest : List Event) : ({ s with agenda := rest } : State).Inv :=
    h.environment s.ie s.ovr s.offers rest s.answers s.busyReads
  rcases step_cases ht with ⟨-, hc⟩ | ⟨rest, -, hc⟩ | ⟨e, rest, -, -, rfl⟩
  · exact h.coreTurn hc
  · exact (hrest rest).coreTurn hc
  · exact (hrest rest).external e

/-- Settles O18: a lemma per operation, put together over the events and the shapes of a command's effect. -/
theorem stepKeepsTheInvariant : Obligations.StepKeepsTheInvariant := fun _ _ hs ht => hs.step ht

/-- Settles O17: the reset state is a state after a reset, up to counters that no clause reads. -/
theorem resetMeetsTheInvariant : Obligations.ResetMeetsTheInvariant :=
  have hr : State.reset.afterReset.Inv := .afterReset (by decide)
  { hr with }

/-! ### The frame of a command -/

/-- Where a command may write: the result buffer PR, the output buffer OUT, or nowhere. -/
theorem Effect.mem_cases {i : Instr} {s t : State} (hs : s.Inv) (he : Effect i s t) :
    t.mem = s.mem ∨
    (∃ r, r.length ≤ s.cfg.pcap ∧ t.mem = Memory.writeFrom s.mem (Buf.pr 0).offset r) ∨
    (∃ l, l.length ≤ s.cfg.nmax + 1 ∧ t.mem = Memory.writeFrom s.mem (Buf.out 0).offset l) := by
  cases he with
  | failed | plain | result | wait | material => exact .inl rfl
  | pr r hr => exact .inr (.inl ⟨r, hr, rfl⟩)
  | prResult r v hr => exact .inr (.inl ⟨r, hr.trans hs.cfgLegal.2.2.1, rfl⟩)
  | share l hm hl =>
    have hn : s.matN.toNat ≤ s.cfg.nmax := (hs.matRange hm).1
    exact .inr (.inr ⟨l, by omega, rfl⟩)
  | secret l hl => exact .inr (.inr ⟨l, by omega, rfl⟩)

/-- A host-writable element never shares its offset with an element the host cannot write. -/
theorem offset_ne_of_hostWritable {c : Config} (hc : c.legal) {b b' : Buf} (hb : b.inRange c = true)
    (hb' : b'.inRange c = true) (hw : b.hostWritable = true) (hw' : b'.hostWritable = false) : b.offset ≠ b'.offset := by
  intro h
  rw [offset_injective hc hb hb' h, hw'] at hw
  cases hw

/-- The registers and the model's fields that no command writes. -/
theorem Effect.host_registers {i : Instr} {s t : State} (he : Effect i s t) :
    t.ie = s.ie ∧ t.ovr = s.ovr ∧ t.cmd = s.cmd ∧ t.secretLen = s.secretLen ∧ t.nshares = s.nshares ∧
      t.paLen = s.paLen ∧ t.pbLen = s.pbLen ∧ t.slen = s.slen ∧ t.cfg = s.cfg ∧ t.agenda = s.agenda ∧
      t.answers = s.answers ∧ t.bufEpoch = s.bufEpoch ∧ t.busyReads = s.busyReads := by
  cases he <;> exact ⟨rfl, rfl, rfl, rfl, rfl, rfl, rfl, rfl, rfl, rfl, rfl, rfl, rfl⟩

theorem Effect.bufEpoch {i : Instr} {s t : State} (he : Effect i s t) : t.bufEpoch = s.bufEpoch := by
  cases he <;> rfl

/-- A command leaves the bytes of the host's buffers. -/
theorem Effect.byteAt_hostWritable {i : Instr} {s t : State} (hs : s.Inv) (he : Effect i s t) {b : Buf}
    (hb : b.inRange s.cfg = true) (hw : b.hostWritable = true) : t.byteAt b.offset = s.byteAt b.offset := by
  rcases he.mem_cases hs with hm | ⟨r, hr, hm⟩ | ⟨l, hl, hm⟩
  · exact byteAt_congr hm he.bufEpoch _
  · refine byteAt_of_writeFrom_other hm he.bufEpoch fun k hk => ?_
    exact offset_ne_of_hostWritable (b' := .pr k) hs.cfgLegal hb (decide_eq_true (hk.trans_le hr)) hw rfl
  · refine byteAt_of_writeFrom_other hm he.bufEpoch fun k hk => ?_
    exact offset_ne_of_hostWritable (b' := .out k) hs.cfgLegal hb
      (decide_eq_true (Nat.le_of_lt_succ (hk.trans_le hl))) hw rfl

/-- Settles O13: a command writes PR or OUT only, whose elements lie apart from the host's. -/
theorem noCommandWritesWhatTheHostOwns : Obligations.NoCommandWritesWhatTheHostOwns := by
  intro i s t hs ht
  have he := effect_of_exec ht
  exact ⟨he.host_registers, fun b hb hw => he.byteAt_hostWritable hs hb hw⟩

/-! ### The material -/

/-- The material and COEF's free entries are those of another state. -/
def SameMaterial (t s : State) : Prop :=
  t.coef = s.coef ∧ t.coefEpoch = s.coefEpoch ∧ t.matN = s.matN ∧ t.matT = s.matT ∧ t.matValid = s.matValid

theorem SameMaterial.refl (s : State) : SameMaterial s s := ⟨rfl, rfl, rfl, rfl, rfl⟩

/-- A command leaves the material, or it is a SPLIT that succeeds. -/
theorem Effect.material_cases {i : Instr} {s t : State} (he : Effect i s t) :
    SameMaterial t s ∨
    ∃ T, i = .split T ∧ t.busy = false ∧ t.err = .ok ∧ t.matValid = true ∧ t.matN = s.secretLen ∧ t.matT = T := by
  cases he with
  | material T hi hT hn hw => exact .inr ⟨T, hi, rfl, rfl, rfl, rfl, rfl⟩
  | failed | plain | result | pr | prResult | share | secret | wait => exact .inl ⟨rfl, rfl, rfl, rfl, rfl⟩

theorem coreTurn_material_cases {s t : State} (h : coreTurn s = .next t) :
    SameMaterial t s ∨
    ∃ T, s.busy = true ∧ decode s.cmd = .instr (.split T) ∧
      t.busy = false ∧ t.err = .ok ∧ t.matValid = true ∧ t.matN = s.secretLen ∧ t.matT = T := by
  rcases coreTurn_cases h with ⟨-, rfl⟩ | ⟨hb, i, hd, hx⟩ | ⟨-, why, -, rfl⟩
  · exact .inl (.refl _)
  · exact (effect_of_exec hx).material_cases.imp_right fun ⟨T, hi, ht⟩ => ⟨T, hb, hi ▸ hd, ht⟩
  · exact .inl (.refl s)

/-- CTRL lies at 0x00000C and nowhere else (20_memory R61). -/
theorem eq_of_locate_ctrl {c : Config} {off : Nat} (h4 : off % 4 = 0) (h : locate c off = some (.reg .ctrl)) :
    off = 0x00000C := by
  rcases locate_cases h with ⟨r, hr, hm, -⟩ | ⟨i, hi, -⟩ | ⟨b, hb, -⟩
  · cases hr
    obtain ⟨hlt, -⟩ := List.getElem?_eq_some_iff.1 hm
    have hplace : ∀ n < regMap.length, regMap[n]? = some .ctrl → n = 3 := by decide
    have h3 := hplace (off / 4) hlt hm
    omega
  · cases hi
  · cases hb

theorem writeCtrl_material_cases (s : State) (v : Word) :
    SameMaterial (s.writeCtrl v) s ∨ (v.getLsbD 1 = true ∧ s.writeCtrl v = s.afterReset) := by
  rw [State.writeCtrl]
  split_ifs with hv
  · exact .inr ⟨hv, rfl⟩
  · exact .inl (.refl s)

/-- A write leaves the material, or it is to CTRL with SRST = 1. -/
theorem writeLoc_material_cases (s : State) (l : Loc) (v : Word) :
    SameMaterial (s.writeLoc l v) s ∨ (l = .reg .ctrl ∧ v.getLsbD 1 = true ∧ s.writeLoc l v = s.afterReset) := by
  cases l with
  | slen i => exact .inl (.refl s)
  | buf b =>
    rw [State.writeLoc]
    split_ifs
    · exact .inl (.refl s)
    · exact .inl (.refl s)
  | reg r =>
    cases r with
    | ctrl => exact (writeCtrl_material_cases s v).imp_right fun hr => ⟨rfl, hr⟩
    | id | param0 | param1 | status | cmd | result | secretLen | nshares | paLen | pbLen | prLen | outLen | matInfo =>
      exact .inl (.refl s)

theorem memWrite_material_cases (off w : Nat) (v : Word) (s : State) :
    SameMaterial (memWrite off w v s).2 s ∨
      (off = 0x00000C ∧ w = 4 ∧ v.getLsbD 1 = true ∧ (memWrite off w v s).2 = s.afterReset) := by
  rcases memWrite_cases (Prod.mk.eta (p := memWrite off w v s)).symm with
    ⟨-, ht, -⟩ | ⟨l, hw, h4, hl, -, ⟨-, -, ht⟩ | ⟨-, ht⟩⟩
  · rw [ht]; exact .inl (.refl s)
  · rw [ht]; exact .inl (.refl s)
  · rw [ht]
    refine (writeLoc_material_cases s l v).imp_right fun ⟨hc, hv, hr⟩ => ⟨?_, hw, hv, hr⟩
    exact eq_of_locate_ctrl h4 (hc ▸ hl)

/-- A platform address with a window offset is the base plus that offset (20_memory R60). -/
theorem eq_of_offsetOf {c : Config} {addr off : Nat} (h : Config.offsetOf c addr = some off) : addr = c.base + off := by
  rw [Config.offsetOf] at h
  split_ifs at h with hr
  cases h
  omega

theorem hostWrite_material_cases (addr w : Nat) (v : Word) (s : State) :
    SameMaterial (hostWrite addr w v s) s ∨
      (addr = s.cfg.base + 0x00000C ∧ w = 4 ∧ v.getLsbD 1 = true ∧ ∃ a, hostWrite addr w v s = s.afterReset.answer a) := by
  rw [hostWrite]
  split
  · exact .inl (.refl s)
  · rename_i off hoff
    refine (memWrite_material_cases off w v s).imp id fun ⟨ho, hw, hv, hr⟩ => ⟨?_, hw, hv, _, by rw [hr]⟩
    rw [eq_of_offsetOf hoff, ho]

/-- An outside event leaves the material, or it is a reset. -/
theorem external_material_cases (e : Event) (s : State) :
    SameMaterial (external e s) s ∨
    ((e = .rst ∨ ∃ v : Word, v.getLsbD 1 = true ∧ e = .write (s.cfg.base + 0x00000C) 4 v) ∧
      (external e s).matValid = false ∧ (external e s).matN = 0 ∧ (external e s).matT = 0) := by
  cases e with
  | read addr w =>
    obtain ⟨l, n, hr⟩ := hostRead_changes addr w s
    rw [external, hr]
    exact .inl (.refl s)
  | write addr w v =>
    refine (hostWrite_material_cases addr w v s).imp_right fun ⟨ha, hw, hv, a, hr⟩ => ?_
    rw [external, hr, ha, hw]
    exact ⟨.inr ⟨v, hv, rfl⟩, rfl, rfl, rfl⟩
  | poll =>
    obtain ⟨g, l, n, hp⟩ := hostPoll_changes s
    rw [external, hp]
    exact .inl (.refl s)
  | offer b => exact .inl (.refl s)
  | rst => exact .inr ⟨.inl rfl, rfl, rfl, rfl⟩
  | core => exact .inl (.refl s)

/-- Settles O14: the core's turn changes the material by SPLIT's commit only, an outside event by a reset only. -/
theorem materialChangesOnlyBySplitOrReset : Obligations.MaterialChangesOnlyBySplitOrReset := by
  intro s t ht
  rcases step_cases ht with ⟨ha, hc⟩ | ⟨rest, ha, hc⟩ | ⟨e, rest, -, ha, rfl⟩
  · refine (coreTurn_material_cases hc).imp_right fun ⟨T, hb, hd, hm⟩ => .inl ⟨T, hb, hd, .inl ha, hm⟩
  · refine (coreTurn_material_cases hc).imp_right fun ⟨T, hb, hd, hm⟩ => .inl ⟨T, hb, hd, .inr (by rw [ha]; rfl), hm⟩
  · refine (external_material_cases e { s with agenda := rest }).imp_right fun ⟨he, hm⟩ => .inr ⟨?_, hm⟩
    rw [ha]
    exact he.imp (congrArg some) fun ⟨v, hv, he⟩ => ⟨v, hv, congrArg some he⟩

/-! ### The register words of the host window -/

/-- Word n of the window names register n of the map (20_memory R61). -/
theorem locate_reg {n : Nat} {r : Reg} (hr : regMap[n]? = some r) (c : Config) : locate c (4 * n) = some (.reg r) := by
  obtain ⟨hlt, -⟩ := List.getElem?_eq_some_iff.1 hr
  have hn : n < 14 := hlt
  rw [locate, if_pos (by omega), Nat.mul_div_cancel_left n (by decide), hr]
  rfl

theorem memRead_reg {n : Nat} {r : Reg} {s : State} (hr : regMap[n]? = some r)
    (hb : s.busy = false ∨ Loc.readableBusy (.reg r) = true) : memRead (4 * n) 4 s = (.readOk (s.regValue r), s) :=
  memRead_of_locate (Nat.mul_mod_right 4 n) (locate_reg hr s.cfg) hb

theorem memWrite_reg {n : Nat} {r : Reg} {s : State} (v : Word) (hr : regMap[n]? = some r)
    (hb : s.busy = false ∨ Loc.writableBusy (.reg r) = true) : memWrite (4 * n) 4 v s = (.writeOk, s.writeReg r v) :=
  memWrite_of_locate (Nat.mul_mod_right 4 n) (locate_reg hr s.cfg) hb

/-- The window's SLEN words (20_memory R61). -/
theorem locate_slen {c : Config} (hc : c.legal) {i : Nat} (hi : i < c.kmax) :
    locate c (0x001000 + 4 * i) = some (.slen i) := by
  obtain ⟨-, ⟨-, hk⟩, -⟩ := hc
  have hidx : (0x001000 + 4 * i - 0x001000) / 4 = i := by omega
  rw [locate, if_neg (by omega), if_pos (by omega), hidx, if_pos hi]

theorem memRead_slen {s : State} (hc : s.cfg.legal) (hb : s.busy = false) {i : Nat} (hi : i < s.cfg.kmax) :
    memRead (0x001000 + 4 * i) 4 s = (.readOk ((s.slenAt i).setWidth 32), s) :=
  memRead_of_locate (by omega) (locate_slen hc hi) (.inl hb)

theorem memWrite_slen {s : State} (hc : s.cfg.legal) (hb : s.busy = false) {i : Nat} (hi : i < s.cfg.kmax) (v : Word) :
    memWrite (0x001000 + 4 * i) 4 v s = (.writeOk, s.setSlen i (v.setWidth 16)) :=
  memWrite_of_locate (by omega) (locate_slen hc hi) (.inl hb)

/-- Settles O47: the four registers by their place in the map, and SLEN by its own reads and writes. -/
theorem lengthRegistersHoldSixteenBits : Obligations.LengthRegistersHoldSixteenBits := by
  intro v s hb
  refine ⟨⟨memWrite_reg (n := 7) v rfl (.inl hb), memRead_reg (n := 7) rfl (.inl hb)⟩,
    ⟨memWrite_reg (n := 8) v rfl (.inl hb), memRead_reg (n := 8) rfl (.inl hb)⟩,
    ⟨memWrite_reg (n := 9) v rfl (.inl hb), memRead_reg (n := 9) rfl (.inl hb)⟩,
    ⟨memWrite_reg (n := 10) v rfl (.inl hb), memRead_reg (n := 10) rfl (.inl hb)⟩, fun i hc hi => ?_⟩
  have hself : (s.setSlen i (v.setWidth 16)).slenAt i = v.setWidth 16 := by simp
  refine ⟨memRead_slen hc hb hi, _, memWrite_slen hc hb hi v, rfl, hself, fun j hj => by simp [hj], ?_⟩
  rw [memRead_slen (s := s.setSlen i (v.setWidth 16)) hc hb hi, hself]

/-! ### STATUS and the identification words -/

/-- Concatenation is positional. -/
theorem toNat_append_eq_add {m n : Nat} (x : BitVec m) (y : BitVec n) : (x ++ y).toNat = x.toNat * 2 ^ n + y.toNat := by
  rw [BitVec.toNat_append, ← Nat.shiftLeft_add_eq_or_of_lt y.isLt, Nat.shiftLeft_eq]

theorem statusWord_toNat (s : State) :
    s.statusWord.toNat = s.err.code.toNat * 16 + s.matValid.toNat * 8 + s.ovr.toNat * 4 + s.done.toNat * 2 + s.busy.toNat := by
  rw [State.statusWord, BitVec.toNat_setWidth_of_le (by decide)]
  simp only [toNat_append_eq_add, BitVec.toNat_ofBool]
  omega

theorem memWrite_status (v : Word) (s : State) : memWrite 0x000010 4 v s = (.writeOk, s.writeStatus v) :=
  memWrite_reg (n := 4) v rfl (.inr rfl)

/-- Settles O49: STATUS by its bits; each value written clears the bits it names. -/
theorem statusWordAndItsClears : Obligations.StatusWordAndItsClears := by
  intro s
  refine ⟨statusWord_toNat s, memRead_reg (n := 4) rfl (.inr rfl), ?_, ?_, ?_, ?_⟩ <;>
    simp [memWrite_status, State.writeStatus]

theorem matInfoWord_toNat (s : State) : s.matInfoWord.toNat = s.matT.toNat * 2 ^ 16 + s.matN.toNat := by
  rw [State.matInfoWord, BitVec.toNat_setWidth_of_le (by decide), toNat_append_eq_add]

/-- Settles O50: each word by its place in the map; a legal parameter fits its 16 bits. -/
theorem identificationWordsRead : Obligations.IdentificationWordsRead := by
  intro s hc
  obtain ⟨⟨-, hn⟩, ⟨-, hk⟩, -, hp⟩ := hc
  refine ⟨memRead_reg (n := 0) rfl (.inr rfl), ⟨_, memRead_reg (n := 1) rfl (.inr rfl), ?_⟩,
    ⟨_, memRead_reg (n := 2) rfl (.inr rfl), ?_⟩, memRead_reg (n := 5) rfl (.inr rfl),
    ⟨_, memRead_reg (n := 3) rfl (.inr rfl), ?_⟩,
    fun hb => ⟨_, memRead_reg (n := 6) rfl (.inl hb), BitVec.toNat_setWidth_of_le (by decide)⟩,
    fun hb => ⟨_, memRead_reg (n := 11) rfl (.inl hb), BitVec.toNat_setWidth_of_le (by decide)⟩,
    fun hb => ⟨_, memRead_reg (n := 12) rfl (.inl hb), BitVec.toNat_setWidth_of_le (by decide)⟩,
    fun hb => ⟨_, memRead_reg (n := 13) rfl (.inl hb), matInfoWord_toNat s⟩⟩
  · rw [State.regValue, toNat_append_eq_add, BitVec.toNat_ofNat, BitVec.toNat_ofNat,
      Nat.mod_eq_of_lt (by omega), Nat.mod_eq_of_lt (by omega)]
  · rw [State.regValue, BitVec.toNat_setWidth_of_le (by decide), BitVec.toNat_ofNat, Nat.mod_eq_of_lt (by omega)]
  · rw [State.regValue, State.ctrlWord, BitVec.toNat_setWidth_of_le (by decide), BitVec.toNat_ofBool]

/-! ### The random-source port -/

/-- rng_ready is 1 exactly while a SPLIT in flight that passes its checks holds too few bytes. -/
theorem rngReady_iff (s : State) :
    s.rngReady = true ↔ s.busy = true ∧ ∃ T, decode s.cmd = .instr (.split T) ∧ T ≠ 0#8 ∧
      s.secretLen.toNat ≤ s.cfg.nmax ∧ s.held.length < s.splitNeed T := by
  rw [State.rngReady, Bool.and_eq_true]
  refine and_congr_right fun _ => ?_
  split
  · rename_i T hd
    simp [hd, and_assoc]
  · rename_i hd
    simp only [Bool.false_eq_true, false_iff]
    rintro ⟨T, hT, -⟩
    exact hd T hT

/-- A SPLIT that passes its checks takes from the source what it still needs, whether or not that is enough. -/
theorem execSplit_offers {T : Byte} {s : State} (hT : T ≠ 0#8) (hn : s.secretLen.toNat ≤ s.cfg.nmax) :
    ∃ t, execSplit T s = .next t ∧ t.offers = s.offers.drop (s.splitNeed T - s.held.length) := by
  rw [execSplit_eq hT hn]
  split_ifs
  · exact ⟨_, rfl, rfl⟩
  · exact ⟨_, rfl, rfl⟩

/-- Settles O57: rng_ready says which checks of SPLIT pass, and then its turn takes the bytes. -/
theorem rngReadyOnlyWhileSplitNeedsBytes : Obligations.RngReadyOnlyWhileSplitNeedsBytes := by
  refine ⟨fun s hr => ?_, fun s T hb hd hT hn hh => (rngReady_iff s).2 ⟨hb, T, hd, hT, hn, hh⟩⟩
  obtain ⟨hb, T, hd, hT, hn, hh⟩ := (rngReady_iff s).1 hr
  refine ⟨T, hb, hd, hh, fun ha => ?_⟩
  rw [step_nil ha, coreTurn, if_pos hb, completeInFlight, hd]
  exact execSplit_offers hT hn

end Sys2Proof.Machine

/-! # Proofs: memory access and ordering (20_memory)

The map of the host window, what an access answers and leaves, the events of the agenda, and a core whose COEF is out of
sight. -/

namespace Sys2Proof.Machine

/-! ### The window map -/

/-- The register map, read as rows of a word number and its register. -/
theorem regMap_getElem?_iff_mem_rows (n : Nat) (r : Reg) :
    regMap[n]? = some r ↔ (n, r) ∈ regMap.zipIdx.map Prod.swap := by
  rw [List.mem_map_swap, List.mk_mem_zipIdx_iff_getElem?]

theorem locate_eq_reg_iff {c : Config} {off : Nat} (h4 : off % 4 = 0) (r : Reg) :
    locate c off = some (.reg r) ↔ regMap[off / 4]? = some r := by
  constructor
  · intro h
    rcases locate_cases h with ⟨r', hr', hm, -⟩ | ⟨i, hi, -⟩ | ⟨b, hb, -⟩
    · cases hr'; exact hm
    · cases hi
    · cases hb
  · intro hm
    have hl := locate_reg hm c
    rwa [Nat.mul_div_cancel' (Nat.dvd_of_mod_eq_zero h4)] at hl

theorem locate_eq_slen_iff {c : Config} (hc : c.legal) {off : Nat} (h4 : off % 4 = 0) (i : Nat) :
    locate c off = some (.slen i) ↔ i < c.kmax ∧ off = 0x001000 + 4 * i := by
  constructor
  · intro h
    rcases locate_cases h with ⟨r, hr, -⟩ | ⟨j, hj, hlt, hlo, -, hidx⟩ | ⟨b, hb, -⟩
    · cases hr
    · cases hj; exact ⟨hlt, by omega⟩
    · cases hb
  · rintro ⟨hi, rfl⟩
    exact locate_slen hc hi

theorem locate_eq_buf_iff {c : Config} (hc : c.legal) {off : Nat} (h4 : off % 4 = 0) (b : Buf) :
    locate c off = some (.buf b) ↔ b.inRange c = true ∧ off = b.offset := by
  constructor
  · intro h
    rcases locate_cases h with ⟨r, hr, -⟩ | ⟨i, hi, -⟩ | ⟨b', hb', hat, hin, hlo⟩
    · cases hr
    · cases hi
    · cases hb'; exact ⟨hin, by rw [hat, offset_bufAt hlo h4]⟩
  · rintro ⟨hin, rfl⟩
    exact locate_offset hc hin

/-- Settles O44: the rows of the register map, and one equivalence for each kind of location. -/
theorem windowMapIsTheTable : Obligations.WindowMapIsTheTable := fun _ hc =>
  ⟨fun r n => regMap_getElem?_iff_mem_rows n r,
    fun _ h4 => ⟨locate_eq_reg_iff h4, locate_eq_slen_iff hc h4, locate_eq_buf_iff hc h4⟩⟩

/-! ### Bus errors -/

theorem memRead_busError {off w : Nat} {s : State} (h : w ≠ 4 ∨ off % 4 ≠ 0 ∨ locate s.cfg off = none) :
    memRead off w s = (.busError, s) := by
  rcases memRead_cases (Prod.mk.eta (p := memRead off w s)).symm with ⟨ha, ht, -⟩ | ⟨l, hw, h4, hl, -⟩
  · exact Prod.ext ha ht
  · simp [hw, h4, hl] at h

theorem memWrite_busError {off w : Nat} {s : State} (v : Word) (h : w ≠ 4 ∨ off % 4 ≠ 0 ∨ locate s.cfg off = none) :
    memWrite off w v s = (.busError, s) := by
  rcases memWrite_cases (Prod.mk.eta (p := memWrite off w v s)).symm with ⟨ha, ht, -⟩ | ⟨l, hw, h4, hl, -⟩
  · exact Prod.ext ha ht
  · simp [hw, h4, hl] at h

/-- Settles O45: the other case of an access needs the right width, an aligned offset and a mapped word. -/
theorem busErrorsChangeNothing : Obligations.BusErrorsChangeNothing := fun _ _ v _ h =>
  ⟨memRead_busError h, memWrite_busError v h⟩

/-! ### Buffer words -/

theorem memRead_buf {s : State} (hc : s.cfg.legal) (hb : s.busy = false) {b : Buf} (hin : b.inRange s.cfg = true) :
    memRead b.offset 4 s = (.readOk ((s.byteAt b.offset).setWidth 32), s) :=
  memRead_of_locate (offset_mod_four b) (locate_offset hc hin) (.inl hb)

theorem memWrite_buf {s : State} (hc : s.cfg.legal) (hb : s.busy = false) {b : Buf} (hin : b.inRange s.cfg = true)
    (v : Word) :
    memWrite b.offset 4 v s =
      (.writeOk, if b.hostWritable then s.storeBytes b.offset [v.setWidth 8] else s) :=
  memWrite_of_locate (offset_mod_four b) (locate_offset hc hin) (.inl hb)

/-- What a byte reads as after a store of one byte. -/
theorem byteAt_storeByte (s : State) (a : Nat) (v : Byte) (a' : Nat) :
    (s.storeBytes a [v]).byteAt a' = if a' = a then v else s.byteAt a' := by
  split_ifs with h
  · subst h
    exact byteAt_of_writeFrom_self (k := 0) (storeBytes_mem s a' [v]) rfl Nat.one_pos
  · refine byteAt_of_writeFrom_other (storeBytes_mem s a [v]) rfl fun k hk => ?_
    have hk0 : k = 0 := by simpa using hk
    rw [hk0]
    exact h

/-- Settles O46: a store of one byte, and elements that differ lie at different offsets. -/
theorem bufferWordsHoldOneByte : Obligations.BufferWordsHoldOneByte := by
  intro b v s hc hb hin hw
  have hread {b' : Buf} (hin' : b'.inRange s.cfg = true) :=
    memRead_buf (s := s.storeBytes b.offset [v.setWidth 8]) hc hb hin'
  refine ⟨s.storeBytes b.offset [v.setWidth 8], by rw [memWrite_buf hc hb hin, if_pos hw], rfl, ?_, fun b' hin' hne => ?_⟩
  · rw [hread hin, byteAt_storeByte, if_pos rfl]
  · have hoff : b'.offset ≠ b.offset := fun h => hne (offset_injective hc hin' hin h)
    rw [hread hin', byteAt_storeByte, if_neg hoff]

/-! ### Read-only words and fields -/

/-- A zero-extended field keeps the bound of its own width. -/
theorem toNat_setWidth_lt {n m : Nat} (x : BitVec n) (h : n ≤ m) : (x.setWidth m).toNat < 2 ^ n := by
  rw [BitVec.toNat_setWidth_of_le h]
  exact x.isLt

theorem writeCtrl_of_srst_clear (s : State) {v : Word} (hv : v.getLsbD 1 = false) :
    s.writeCtrl v = { s with ie := v.getLsbD 0 } := by
  rw [State.writeCtrl, hv, if_neg Bool.false_ne_true]

/-- Settles O48: a read-only word by its place in the map, STATUS and CTRL by their writes, a reserved bit by the width of the
field that the word extends. -/
theorem readOnlyWordsIgnoreWrites : Obligations.ReadOnlyWordsIgnoreWrites := by
  intro v s
  refine ⟨fun hb => ⟨?_, fun hc b hin hro => ?_⟩, memWrite_status v s, fun hv => ?_, ?_⟩
  · simp only [List.forall_mem_cons]
    exact ⟨memWrite_reg (n := 0) v rfl (.inl hb), memWrite_reg (n := 1) v rfl (.inl hb),
      memWrite_reg (n := 2) v rfl (.inl hb), memWrite_reg (n := 6) v rfl (.inl hb),
      memWrite_reg (n := 11) v rfl (.inl hb), memWrite_reg (n := 12) v rfl (.inl hb),
      memWrite_reg (n := 13) v rfl (.inl hb), List.forall_mem_nil _⟩
  · rw [memWrite_buf hc hb hin, hro, if_neg Bool.false_ne_true]
  · rw [← writeCtrl_of_srst_clear s hv]
    exact memWrite_reg (n := 3) v rfl (.inr rfl)
  · refine ⟨?_, ?_, ?_, ?_, ?_, ?_, ?_, ?_, ?_, ?_, ?_⟩ <;> exact toNat_setWidth_lt _ (by decide)

/-! ### Reads -/

/-- From RESULT on no word of the window is among the six that stay readable (70_reset R248). -/
theorem not_readableBusy_of_locate {c : Config} {off : Nat} {l : Loc} (hl : locate c off = some l)
    (ho : 0x000018 ≤ off) : l.readableBusy = false := by
  rcases locate_cases hl with ⟨r, rfl, hm, -⟩ | ⟨i, rfl, -⟩ | ⟨b, rfl, -⟩
  · have hplace : ∀ n < regMap.length, 6 ≤ n → ∀ r ∈ regMap[n]?, (Loc.reg r).readableBusy = false := by decide
    obtain ⟨hlt, -⟩ := List.getElem?_eq_some_iff.1 hm
    exact hplace (off / 4) hlt (by omega) r hm
  · rfl
  · rfl

/-- The undefined case of a read, forwards (70_reset R248). -/
theorem memRead_undefined {off : Nat} {s : State} {l : Loc} (h4 : off % 4 = 0) (hl : locate s.cfg off = some l)
    (hb : s.busy = true) (hr : l.readableBusy = false) :
    memRead off 4 s = (.readOk (Config.busyReadDraw s.busyReads), { s with busyReads := s.busyReads + 1 }) := by
  rw [memRead, if_neg (by omega), hl]
  simp [hb, hr]

theorem memRead_idle {s : State} (hb : s.busy = false) (off w : Nat) : (memRead off w s).2 = s := by
  rcases memRead_cases (Prod.mk.eta (p := memRead off w s)).symm with
    ⟨-, ht, -⟩ | ⟨l, -, -, -, ⟨hbusy, -⟩ | ⟨-, -, ht⟩⟩
  · exact ht
  · rw [hb] at hbusy; cases hbusy
  · exact ht

/-- Settles O52: a read's cases; the six registers by their place in the map, every later word by its draw. -/
theorem readsHaveNoEffect : Obligations.ReadsHaveNoEffect := by
  intro off w s
  refine ⟨?_, fun hb => memRead_idle hb off w, fun _ => ?_, fun hb hw h4 hmap ho => ?_⟩
  · obtain ⟨n, h⟩ := memRead_changes off w s
    rw [h]
  · exact ⟨memRead_reg (n := 0) rfl (.inr rfl), memRead_reg (n := 1) rfl (.inr rfl), memRead_reg (n := 2) rfl (.inr rfl),
      memRead_reg (n := 3) rfl (.inr rfl), memRead_reg (n := 4) rfl (.inr rfl), memRead_reg (n := 5) rfl (.inr rfl)⟩
  · obtain ⟨l, hl⟩ := Option.ne_none_iff_exists'.1 hmap
    rw [hw]
    exact ⟨_, memRead_undefined h4 hl hb (not_readableBusy_of_locate hl ho)⟩

/-! ### The events of the agenda -/

/-- An offset of the window is the offset of its platform address (20_memory R60). -/
theorem offsetOf_base_add (c : Config) {off : Nat} (h : off < 0x1000000) :
    Config.offsetOf c (c.base + off) = some off := by
  rw [Config.offsetOf, if_pos (by omega), Nat.add_sub_cancel_left]

theorem hostRead_base_add (s : State) {off : Nat} (h : off < 0x1000000) (w : Nat) :
    hostRead (s.cfg.base + off) w s = (memRead off w s).2.answer (memRead off w s).1 := by
  rw [hostRead, offsetOf_base_add s.cfg h]

theorem hostWrite_base_add (s : State) {off : Nat} (h : off < 0x1000000) (w : Nat) (v : Word) :
    hostWrite (s.cfg.base + off) w v s = (memWrite off w v s).2.answer (memWrite off w v s).1 := by
  rw [hostWrite, offsetOf_base_add s.cfg h]

/-- The events to come and the answers given are those of another state. -/
def SameQueues (t s : State) : Prop := t.agenda = s.agenda ∧ t.answers = s.answers

theorem memRead_sameQueues (off w : Nat) (s : State) : SameQueues (memRead off w s).2 s := by
  obtain ⟨n, h⟩ := memRead_changes off w s
  rw [h]
  exact ⟨rfl, rfl⟩

/-- A write, a reset by SRST included, leaves the queues. -/
theorem writeLoc_sameQueues (s : State) (l : Loc) (v : Word) : SameQueues (s.writeLoc l v) s := by
  cases l with
  | slen i => exact ⟨rfl, rfl⟩
  | buf b =>
    rw [State.writeLoc]
    split_ifs <;> exact ⟨rfl, rfl⟩
  | reg r =>
    cases r with
    | ctrl =>
      rw [State.writeLoc, State.writeReg, State.writeCtrl]
      split_ifs <;> exact ⟨rfl, rfl⟩
    | id | param0 | param1 | status | cmd | result | secretLen | nshares | paLen | pbLen | prLen | outLen | matInfo =>
      exact ⟨rfl, rfl⟩

theorem memWrite_sameQueues (off w : Nat) (v : Word) (s : State) : SameQueues (memWrite off w v s).2 s := by
  rcases memWrite_cases (Prod.mk.eta (p := memWrite off w v s)).symm with
    ⟨-, ht, -⟩ | ⟨l, -, -, -, -, ⟨-, -, ht⟩ | ⟨-, ht⟩⟩
  · rw [ht]; exact ⟨rfl, rfl⟩
  · rw [ht]; exact ⟨rfl, rfl⟩
  · rw [ht]; exact writeLoc_sameQueues s l v

/-- Settles O10: the step takes its event off the agenda; an access leaves the queues, and then its answer is put in front. -/
theorem eventsActOneAtATime : Obligations.EventsActOneAtATime := by
  refine ⟨fun s rest off w v ho => ⟨fun ha => ?_, fun ha => ?_⟩, fun s rest => ⟨fun b ha => ?_, fun ha => ?_⟩⟩
  · obtain ⟨hg, han⟩ := memRead_sameQueues off w { s with agenda := rest }
    refine ⟨_, step_external (by simp) ha, ?_⟩
    rw [external, hostRead_base_add { s with agenda := rest } ho]
    exact ⟨hg, by rw [State.answer, han]⟩
  · obtain ⟨hg, han⟩ := memWrite_sameQueues off w v { s with agenda := rest }
    refine ⟨_, step_external (by simp) ha, ?_⟩
    rw [external, hostWrite_base_add { s with agenda := rest } ho]
    exact ⟨hg, by rw [State.answer, han]⟩
  · exact step_external (by simp) ha
  · exact ⟨_, step_external (by simp) ha, hasResetValues_afterReset _, rfl, rfl, rfl, rfl⟩

/-! ### COEF out of sight -/

/-- The state without what COEF and its free entries hold. -/
def State.hideCoef (s : State) : State := { s with coef := [], coefEpoch := 0 }

/-- What a command answers, seen without COEF. -/
def hideCoefOut : Out → Out
  | .next t => .next t.hideCoef
  | .fault r => .fault r
  | .refused r => .refused r

@[simp] theorem hideCoef_cfg (s : State) : s.hideCoef.cfg = s.cfg := rfl
@[simp] theorem hideCoef_busy (s : State) : s.hideCoef.busy = s.busy := rfl
@[simp] theorem hideCoef_nshares (s : State) : s.hideCoef.nshares = s.nshares := rfl
@[simp] theorem hideCoef_slenAt (s : State) (i : Nat) : s.hideCoef.slenAt i = s.slenAt i := rfl
@[simp] theorem hideCoef_points (s : State) (k p : Nat) : s.hideCoef.points k p = s.points k p := rfl
@[simp] theorem answer_hideCoef (s : State) (a : Answer) : (s.answer a).hideCoef = s.hideCoef.answer a := rfl

@[simp] theorem hideCoef_recoverBytes (s : State) (k n : Nat) : s.hideCoef.recoverBytes k n = s.recoverBytes k n := by
  induction n with
  | zero => rfl
  | succ n ih => rw [State.recoverBytes, State.recoverBytes, ih, hideCoef_points]

@[simp] theorem hideCoef_locValue (s : State) (l : Loc) : s.hideCoef.locValue l = s.locValue l := by
  cases l with
  | reg r => cases r <;> rfl
  | slen | buf => rfl

/-- A read answers the same. -/
theorem memRead_hideCoef (off w : Nat) (s : State) :
    memRead off w s.hideCoef = ((memRead off w s).1, (memRead off w s).2.hideCoef) := by
  rcases memRead_cases (Prod.mk.eta (p := memRead off w s)).symm with
    ⟨ha, ht, h⟩ | ⟨l, rfl, h4, hl, ⟨hb, hr, ha, ht⟩ | ⟨hb, ha, ht⟩⟩
  · rw [ha, ht, memRead_busError (s := s.hideCoef) h]
  · rw [ha, ht, memRead_undefined (s := s.hideCoef) h4 hl hb hr]; rfl
  · rw [ha, ht, memRead_of_locate (s := s.hideCoef) h4 hl hb, hideCoef_locValue]

/-- A write leaves the same but for COEF, which SRST draws anew. -/
theorem writeLoc_hideCoef (s : State) (l : Loc) (v : Word) :
    (s.hideCoef.writeLoc l v).hideCoef = (s.writeLoc l v).hideCoef := by
  cases l with
  | slen i => rfl
  | buf b =>
    simp only [State.writeLoc]
    split_ifs <;> rfl
  | reg r =>
    cases r with
    | ctrl =>
      simp only [State.writeLoc, State.writeReg, State.writeCtrl]
      split_ifs <;> rfl
    | id | param0 | param1 | status | cmd | result | secretLen | nshares | paLen | pbLen | prLen | outLen | matInfo => rfl

/-- A write answers the same and leaves the same but for COEF. -/
theorem memWrite_hideCoef (off w : Nat) (v : Word) (s : State) :
    (memWrite off w v s.hideCoef).1 = (memWrite off w v s).1 ∧
      (memWrite off w v s.hideCoef).2.hideCoef = (memWrite off w v s).2.hideCoef := by
  rcases memWrite_cases (Prod.mk.eta (p := memWrite off w v s)).symm with
    ⟨ha, ht, h⟩ | ⟨l, rfl, h4, hl, ha, ⟨hb, hw, ht⟩ | ⟨hb, ht⟩⟩
  · rw [ha, ht, memWrite_busError (s := s.hideCoef) v h]; exact ⟨rfl, rfl⟩
  · rw [ha, ht, memWrite_dropped (s := s.hideCoef) h4 hl hb hw]; exact ⟨rfl, rfl⟩
  · rw [ha, ht, memWrite_of_locate (s := s.hideCoef) h4 hl hb]; exact ⟨rfl, writeLoc_hideCoef s l v⟩

theorem hostRead_hideCoef (addr w : Nat) (s : State) : hostRead addr w s.hideCoef = (hostRead addr w s).hideCoef := by
  simp only [hostRead, hideCoef_cfg, memRead_hideCoef]
  split <;> rfl

theorem hostWrite_hideCoef (addr w : Nat) (v : Word) (s : State) :
    (hostWrite addr w v s.hideCoef).hideCoef = (hostWrite addr w v s).hideCoef := by
  simp only [hostWrite, hideCoef_cfg]
  split
  · rfl
  · rename_i off _
    obtain ⟨ha, ht⟩ := memWrite_hideCoef off w v s
    rw [answer_hideCoef, answer_hideCoef, ha, ht]

/-- An outside event leaves the same but for COEF. -/
theorem external_hideCoef (e : Event) (s : State) : (external e s.hideCoef).hideCoef = (external e s).hideCoef := by
  cases e with
  | read addr w => rw [external, external, hostRead_hideCoef]; rfl
  | write addr w v => exact hostWrite_hideCoef addr w v s
  | poll =>
    simp only [external, hostPoll, hideCoef_cfg, hideCoef_busy, hostRead_hideCoef]
    split_ifs <;> rfl
  | offer | rst | core => rfl

/-- A check with one condition for both runs: the answers agree when they agree on either side of it. -/
theorem hideCoefOut_ite {p : Prop} {d d' : Decidable p} {x x' y y' : Out} (hx : hideCoefOut x' = hideCoefOut x)
    (hy : hideCoefOut y' = hideCoefOut y) : hideCoefOut (@ite _ p d' x' y') = hideCoefOut (@ite _ p d x y) := by
  by_cases hp : p
  · rwa [if_pos hp, if_pos hp]
  · rwa [if_neg hp, if_neg hp]

theorem execGfDiv_hideCoef (a b : Byte) (s : State) :
    hideCoefOut (execGfDiv a b s.hideCoef) = hideCoefOut (execGfDiv a b s) := by
  rw [execGfDiv, execGfDiv]
  cases gfDiv a b <;> rfl

theorem execPolyAdd_hideCoef (s : State) : hideCoefOut (execPolyAdd s.hideCoef) = hideCoefOut (execPolyAdd s) :=
  hideCoefOut_ite rfl rfl

theorem execPolyMul_hideCoef (s : State) : hideCoefOut (execPolyMul s.hideCoef) = hideCoefOut (execPolyMul s) :=
  hideCoefOut_ite rfl (hideCoefOut_ite rfl rfl)

theorem execPolyEval_hideCoef (x : Byte) (s : State) :
    hideCoefOut (execPolyEval x s.hideCoef) = hideCoefOut (execPolyEval x s) :=
  hideCoefOut_ite rfl rfl

/-- SPLIT waits and leaves COEF, or writes COEF without reading it. -/
theorem execSplit_hideCoef (T : Byte) (s : State) :
    hideCoefOut (execSplit T s.hideCoef) = hideCoefOut (execSplit T s) :=
  hideCoefOut_ite rfl (hideCoefOut_ite rfl (hideCoefOut_ite rfl rfl))

theorem execLagrange_hideCoef (p : Half) (s : State) :
    hideCoefOut (execLagrange p s.hideCoef) = hideCoefOut (execLagrange p s) := by
  refine hideCoefOut_ite rfl (hideCoefOut_ite rfl (hideCoefOut_ite rfl ?_))
  rw [hideCoef_points, hideCoef_nshares]
  cases lagrange (s.points s.nshares.toNat p.toNat) <;> rfl

theorem execRecover_hideCoef (T : Byte) (s : State) :
    hideCoefOut (execRecover T s.hideCoef) = hideCoefOut (execRecover T s) := by
  refine hideCoefOut_ite rfl (hideCoefOut_ite rfl (hideCoefOut_ite rfl (hideCoefOut_ite rfl (hideCoefOut_ite rfl
    (hideCoefOut_ite rfl ?_)))))
  rw [hideCoef_recoverBytes, hideCoef_nshares, hideCoef_slenAt]
  cases s.recoverBytes s.nshares.toNat ((s.slenAt 0).toNat - 1) <;> rfl

/-- A command that reads no material answers the same but for COEF. -/
theorem exec_hideCoef {i : Instr} (hg : ∀ id, i ≠ .getShare id) (hv : ∀ slot, i ≠ .isValid slot) (s : State) :
    hideCoefOut (exec i s.hideCoef) = hideCoefOut (exec i s) := by
  cases i with
  | nop | gfAdd | gfSub | gfMul => rfl
  | gfDiv a b => exact execGfDiv_hideCoef a b s
  | polyAdd => exact execPolyAdd_hideCoef s
  | polyMul => exact execPolyMul_hideCoef s
  | polyEval x => exact execPolyEval_hideCoef x s
  | split T => exact execSplit_hideCoef T s
  | getShare id => exact absurd rfl (hg id)
  | isValid slot => exact absurd rfl (hv slot)
  | lagrange p => exact execLagrange_hideCoef p s
  | recover T => exact execRecover_hideCoef T s

/-- Settles O56: with COEF out of sight both runs start in one state, and neither an event nor the command tells them apart. -/
theorem materialIsInvisible : Obligations.MaterialIsInvisible := by
  intro s c n
  have hstart : ({ s with coef := c, coefEpoch := n } : State).hideCoef = s.hideCoef := rfl
  refine ⟨fun e => ?_, fun i t t' hg hv ht ht' => ?_⟩
  · have hrun := external_hideCoef e { s with coef := c, coefEpoch := n }
    rw [hstart] at hrun
    exact hrun.symm.trans (external_hideCoef e s)
  · have hrun := exec_hideCoef hg hv { s with coef := c, coefEpoch := n }
    rw [hstart, exec_hideCoef hg hv s, ht, ht'] at hrun
    exact (Host.Outcome.next.inj hrun).symm

end Sys2Proof.Machine

/-! # Proofs: the command encoding (30_encoding)

A word is its opcode byte followed by 24 operand bits. The opcode names a mnemonic, the mnemonic's format says which operand
bits are reserved, and the decoder, the encoder and the opcode map are each tied once to these three columns of R93. -/

namespace Sys2Proof

/-! ### The columns of the opcode map -/

/-- The OPC column (30_encoding R93). -/
def Mnemonic.opc : Mnemonic → Byte
  | .nop => 0x00#8
  | .gfAdd => 0x01#8
  | .gfSub => 0x02#8
  | .gfMul => 0x03#8
  | .gfDiv => 0x04#8
  | .polyAdd => 0x10#8
  | .polyMul => 0x11#8
  | .polyEval => 0x12#8
  | .split => 0x20#8
  | .getShare => 0x21#8
  | .isValid => 0x22#8
  | .lagrange => 0x30#8
  | .recover => 0x31#8

/-- The reserved bits of a format among the 24 operand bits (30_encoding R91). -/
def Format.reserved : Format → BitVec 24
  | .n => 0xFFFFFF#24
  | .b1 => 0x00FFFF#24
  | .b2 => 0x0000FF#24
  | .x => 0xFF0000#24

/-- The command of a mnemonic with its operands taken from the 24 operand bits (30_encoding R92). -/
def Mnemonic.read (m : Mnemonic) (l : BitVec 24) : Instr :=
  match m with
  | .nop => .nop
  | .gfAdd => .gfAdd (l.extractLsb' 16 8) (l.extractLsb' 8 8)
  | .gfSub => .gfSub (l.extractLsb' 16 8) (l.extractLsb' 8 8)
  | .gfMul => .gfMul (l.extractLsb' 16 8) (l.extractLsb' 8 8)
  | .gfDiv => .gfDiv (l.extractLsb' 16 8) (l.extractLsb' 8 8)
  | .polyAdd => .polyAdd
  | .polyMul => .polyMul
  | .polyEval => .polyEval (l.extractLsb' 16 8)
  | .split => .split (l.extractLsb' 16 8)
  | .getShare => .getShare (l.extractLsb' 16 8)
  | .isValid => .isValid (l.extractLsb' 16 8)
  | .lagrange => .lagrange (l.extractLsb' 0 16)
  | .recover => .recover (l.extractLsb' 16 8)

/-- The 24 operand bits of a command, reserved bits 0 (30_encoding R91). -/
def Instr.operandBits : Instr → BitVec 24
  | .nop | .polyAdd | .polyMul => 0
  | .gfAdd a b | .gfSub a b | .gfMul a b | .gfDiv a b => a ++ (b ++ 0#8)
  | .polyEval a | .split a | .getShare a | .isValid a | .recover a => a ++ 0#16
  | .lagrange p => 0#8 ++ p

/-- The operand bits w[23:0] of a word (30_encoding R91). -/
def operandBits (w : Word) : BitVec 24 := w.extractLsb' 0 24

@[simp] theorem mnemonic_read (m : Mnemonic) (l : BitVec 24) : (m.read l).toAsm.mnemonic = m := by
  cases m <;> rfl

/-! ### A word is its opcode and its operand bits -/

/-- The two parts of a concatenation can be read off it. -/
theorem append_eq_append_iff {m n : Nat} {x x' : BitVec m} {y y' : BitVec n} :
    x ++ y = x' ++ y' ↔ x = x' ∧ y = y' := by
  refine ⟨fun h => ⟨?_, ?_⟩, fun ⟨hx, hy⟩ => by rw [hx, hy]⟩
  · simpa only [BitVec.extractLsb'_append_eq_left] using congrArg (BitVec.extractLsb' n m) h
  · simpa only [BitVec.extractLsb'_append_eq_right] using congrArg (BitVec.extractLsb' 0 n) h

/-- A bit vector is its upper bits followed by its lower bits. -/
theorem extractLsb'_append_extractLsb'_eq_self {m n : Nat} (x : BitVec (m + n)) :
    x.extractLsb' n m ++ x.extractLsb' 0 n = x :=
  (BitVec.extractLsb'_append_extractLsb'_eq_extractLsb' (Nat.zero_add n).symm).trans BitVec.extractLsb'_eq_self

@[simp] theorem opcOf_append (k : Byte) (l : BitVec 24) : opcOf (k ++ l) = k := BitVec.extractLsb'_append_eq_left

@[simp] theorem operandBits_append (k : Byte) (l : BitVec 24) : operandBits (k ++ l) = l :=
  BitVec.extractLsb'_append_eq_right

theorem opcOf_append_operandBits (w : Word) : opcOf w ++ operandBits w = w :=
  extractLsb'_append_extractLsb'_eq_self (m := 8) (n := 24) w

theorem opcOf_toNat (w : Word) : (opcOf w).toNat = w.toNat / 2 ^ 24 := by
  rw [opcOf, BitVec.extractLsb'_toNat, Nat.shiftRight_eq_div_pow]
  omega

/-! ### The reserved bits of each format -/

/-- A mask of zeros above and ones below looks at the lower bits only. -/
theorem and_ones_below_eq_zero_iff {m n : Nat} (x : BitVec (m + n)) :
    x &&& (0#m ++ BitVec.allOnes n) = 0#(m + n) ↔ x.extractLsb' 0 n = 0#n := by
  conv_lhs => rw [← extractLsb'_append_extractLsb'_eq_self x, BitVec.and_append, ← BitVec.zero_append_zero,
    append_eq_append_iff, BitVec.and_allOnes, BitVec.and_zero]
  exact and_iff_right rfl

/-- A mask of ones above and zeros below looks at the upper bits only. -/
theorem and_ones_above_eq_zero_iff {m n : Nat} (x : BitVec (m + n)) :
    x &&& (BitVec.allOnes m ++ 0#n) = 0#(m + n) ↔ x.extractLsb' n m = 0#m := by
  conv_lhs => rw [← extractLsb'_append_extractLsb'_eq_self x, BitVec.and_append, ← BitVec.zero_append_zero,
    append_eq_append_iff, BitVec.and_allOnes, BitVec.and_zero]
  exact and_iff_left rfl

theorem and_reserved_n_iff (l : BitVec 24) : l &&& Format.n.reserved = 0 ↔ l = 0 :=
  iff_of_eq (congrArg (· = 0) (BitVec.and_allOnes (x := l)))

theorem and_reserved_b1_iff (l : BitVec 24) : l &&& Format.b1.reserved = 0 ↔ l.extractLsb' 0 16 = 0 :=
  and_ones_below_eq_zero_iff (m := 8) (n := 16) l

theorem and_reserved_b2_iff (l : BitVec 24) : l &&& Format.b2.reserved = 0 ↔ l.extractLsb' 0 8 = 0 :=
  and_ones_below_eq_zero_iff (m := 16) (n := 8) l

theorem and_reserved_x_iff (l : BitVec 24) : l &&& Format.x.reserved = 0 ↔ l.extractLsb' 16 8 = 0 :=
  and_ones_above_eq_zero_iff (m := 8) (n := 16) l

/-! ### The decoder by format -/

theorem extractLsb'_operandBits (w : Word) {start len : Nat} (h : start + len ≤ 24) :
    (operandBits w).extractLsb' start len = w.extractLsb' start len :=
  BitVec.extractLsb'_extractLsb'_of_le h

theorem decodeN_eq (w : Word) (i : Instr) :
    decodeN w i = if operandBits w &&& Format.n.reserved = 0 then .instr i else .illegal .reservedBits := by
  simp only [and_reserved_n_iff]
  rfl

theorem decodeB1_eq (w : Word) (f : Byte → Instr) :
    decodeB1 w f = if operandBits w &&& Format.b1.reserved = 0 then .instr (f ((operandBits w).extractLsb' 16 8))
      else .illegal .reservedBits := by
  simp only [and_reserved_b1_iff, extractLsb'_operandBits w (show 0 + 16 ≤ 24 by decide),
    extractLsb'_operandBits w (show 16 + 8 ≤ 24 by decide)]
  rfl

theorem decodeB2_eq (w : Word) (f : Byte → Byte → Instr) :
    decodeB2 w f = if operandBits w &&& Format.b2.reserved = 0 then
        .instr (f ((operandBits w).extractLsb' 16 8) ((operandBits w).extractLsb' 8 8))
      else .illegal .reservedBits := by
  simp only [and_reserved_b2_iff, extractLsb'_operandBits w (show 0 + 8 ≤ 24 by decide),
    extractLsb'_operandBits w (show 8 + 8 ≤ 24 by decide), extractLsb'_operandBits w (show 16 + 8 ≤ 24 by decide)]
  rfl

theorem decodeX_eq (w : Word) (f : Half → Instr) :
    decodeX w f = if operandBits w &&& Format.x.reserved = 0 then .instr (f ((operandBits w).extractLsb' 0 16))
      else .illegal .reservedBits := by
  simp only [and_reserved_x_iff, extractLsb'_operandBits w (show 0 + 16 ≤ 24 by decide),
    extractLsb'_operandBits w (show 16 + 8 ≤ 24 by decide)]
  rfl

/-- An assigned opcode: the reserved bits decide, and the command is read from the operand bits (30_encoding R94). -/
theorem decode_of_opc {w : Word} {m : Mnemonic} (h : opcOf w = m.opc) :
    decode w = if operandBits w &&& m.format.reserved = 0 then .instr (m.read (operandBits w))
      else .illegal .reservedBits := by
  rw [decode, h]
  cases m with
  | nop | polyAdd | polyMul => exact decodeN_eq w _
  | gfAdd | gfSub | gfMul | gfDiv => exact decodeB2_eq w _
  | polyEval | split | getShare | isValid | recover => exact decodeB1_eq w _
  | lagrange => exact decodeX_eq w _

/-- Every opcode is a mnemonic's, or the word is ILLEGAL by it (30_encoding R95). -/
theorem exists_opc_or_unassigned (w : Word) :
    (∃ m : Mnemonic, opcOf w = m.opc) ∨ decode w = .illegal .unassignedOpcode := by
  rw [decode]
  split
  case h_1 h => exact .inl ⟨.nop, BitVec.eq_of_toNat_eq h⟩
  case h_2 h => exact .inl ⟨.gfAdd, BitVec.eq_of_toNat_eq h⟩
  case h_3 h => exact .inl ⟨.gfSub, BitVec.eq_of_toNat_eq h⟩
  case h_4 h => exact .inl ⟨.gfMul, BitVec.eq_of_toNat_eq h⟩
  case h_5 h => exact .inl ⟨.gfDiv, BitVec.eq_of_toNat_eq h⟩
  case h_6 h => exact .inl ⟨.polyAdd, BitVec.eq_of_toNat_eq h⟩
  case h_7 h => exact .inl ⟨.polyMul, BitVec.eq_of_toNat_eq h⟩
  case h_8 h => exact .inl ⟨.polyEval, BitVec.eq_of_toNat_eq h⟩
  case h_9 h => exact .inl ⟨.split, BitVec.eq_of_toNat_eq h⟩
  case h_10 h => exact .inl ⟨.getShare, BitVec.eq_of_toNat_eq h⟩
  case h_11 h => exact .inl ⟨.isValid, BitVec.eq_of_toNat_eq h⟩
  case h_12 h => exact .inl ⟨.lagrange, BitVec.eq_of_toNat_eq h⟩
  case h_13 h => exact .inl ⟨.recover, BitVec.eq_of_toNat_eq h⟩
  case h_14 => exact .inr rfl

theorem decode_eq_instr_iff (w : Word) (i : Instr) :
    decode w = .instr i ↔
      ∃ m : Mnemonic, opcOf w = m.opc ∧ operandBits w &&& m.format.reserved = 0 ∧ m.read (operandBits w) = i := by
  constructor
  · intro h
    rcases exists_opc_or_unassigned w with ⟨m, ho⟩ | hu
    · rw [decode_of_opc ho] at h
      split_ifs at h with hz
      exact ⟨m, ho, hz, Decoded.instr.inj h⟩
    · rw [hu] at h
      cases h
  · rintro ⟨m, ho, hz, rfl⟩
    rw [decode_of_opc ho, if_pos hz]

/-! ### The encoder by format -/

theorem encodeN_eq_append (k : Nat) : encodeN k = BitVec.ofNat 8 k ++ 0#24 := by
  apply BitVec.eq_of_toNat_eq
  rw [encodeN, Machine.toNat_append_eq_add, BitVec.toNat_shiftLeft, Nat.shiftLeft_eq, BitVec.toNat_ofNat,
    BitVec.toNat_ofNat, BitVec.toNat_ofNat]
  omega

/-- Operand A at its place (30_encoding R97). -/
theorem setWidth_shiftLeft_sixteen (a : Byte) : a.setWidth 32 <<< 16 = 0#8 ++ (a ++ 0#16) := by
  apply BitVec.eq_of_toNat_eq
  simp only [Machine.toNat_append_eq_add, BitVec.toNat_shiftLeft, Nat.shiftLeft_eq, BitVec.toNat_setWidth,
    BitVec.toNat_ofNat]
  omega

/-- Operand IDX at its place (30_encoding R97). -/
theorem setWidth_idx (p : Half) : p.setWidth 32 = 0#8 ++ (0#8 ++ p) := by
  apply BitVec.eq_of_toNat_eq
  simp only [Machine.toNat_append_eq_add, BitVec.toNat_setWidth, BitVec.toNat_ofNat]
  omega

/-- Operand B at its place (30_encoding R97). -/
theorem setWidth_shiftLeft_eight (b : Byte) : b.setWidth 32 <<< 8 = 0#8 ++ (0#8 ++ (b ++ 0#8)) := by
  apply BitVec.eq_of_toNat_eq
  simp only [Machine.toNat_append_eq_add, BitVec.toNat_shiftLeft, Nat.shiftLeft_eq, BitVec.toNat_setWidth,
    BitVec.toNat_ofNat]
  omega

theorem encodeB1_eq_append (k : Nat) (a : Byte) : encodeB1 k a = BitVec.ofNat 8 k ++ (a ++ 0#16) := by
  rw [encodeB1, encodeN_eq_append, setWidth_shiftLeft_sixteen, BitVec.or_append, BitVec.or_zero, BitVec.zero_or]

theorem encodeB2_eq_append (k : Nat) (a b : Byte) : encodeB2 k a b = BitVec.ofNat 8 k ++ (a ++ (b ++ 0#8)) := by
  rw [encodeB2, encodeB1_eq_append, setWidth_shiftLeft_eight, BitVec.or_append, BitVec.or_zero, BitVec.or_append,
    BitVec.or_zero, BitVec.zero_or]

theorem encodeX_eq_append (k : Nat) (p : Half) : encodeX k p = BitVec.ofNat 8 k ++ (0#8 ++ p) := by
  rw [encodeX, encodeN_eq_append, setWidth_idx, BitVec.or_append, BitVec.or_zero, BitVec.zero_or]

/-- The word of a command: its opcode and its operand bits (30_encoding R97). -/
theorem encode_eq_append (i : Instr) : encode i = i.toAsm.mnemonic.opc ++ i.operandBits := by
  cases i with
  | nop | polyAdd | polyMul => exact encodeN_eq_append _
  | gfAdd a b | gfSub a b | gfMul a b | gfDiv a b => exact encodeB2_eq_append _ a b
  | polyEval a | split a | getShare a | isValid a | recover a => exact encodeB1_eq_append _ a
  | lagrange p => exact encodeX_eq_append _ p

/-! ### Operand bits and the command they stand for -/

theorem extractLsb'_operandA_append (a b c : Byte) : (a ++ (b ++ c)).extractLsb' 16 8 = a :=
  BitVec.extractLsb'_append_eq_left (w := 8) (w' := 16)

theorem extractLsb'_operandB_append (a b c : Byte) : (a ++ (b ++ c)).extractLsb' 8 8 = b :=
  (BitVec.extractLsb'_append_eq_of_add_le (w := 16) (by decide)).trans BitVec.extractLsb'_append_eq_left

theorem extractLsb'_lowByte_append (a b c : Byte) : (a ++ (b ++ c)).extractLsb' 0 8 = c :=
  (BitVec.extractLsb'_append_eq_of_add_le (w := 16) (by decide)).trans BitVec.extractLsb'_append_eq_right

/-- No operand bit of a command is reserved (30_encoding R91). -/
theorem operandBits_and_reserved (i : Instr) : i.operandBits &&& i.toAsm.mnemonic.format.reserved = 0 := by
  cases i with
  | nop | polyAdd | polyMul => rfl
  | gfAdd a b | gfSub a b | gfMul a b | gfDiv a b =>
    exact (and_reserved_b2_iff _).2 (extractLsb'_lowByte_append a b 0#8)
  | polyEval a | split a | getShare a | isValid a | recover a =>
    exact (and_reserved_b1_iff _).2 BitVec.extractLsb'_append_eq_right
  | lagrange p => exact (and_reserved_x_iff _).2 BitVec.extractLsb'_append_eq_left

/-- Reading a command's operand bits gives the command (30_encoding R92). -/
theorem read_operandBits (i : Instr) : i.toAsm.mnemonic.read i.operandBits = i := by
  cases i with
  | nop | polyAdd | polyMul => rfl
  | gfAdd a b | gfSub a b | gfMul a b | gfDiv a b =>
    simp only [Instr.toAsm, Mnemonic.read, Instr.operandBits, extractLsb'_operandA_append, extractLsb'_operandB_append]
  | polyEval a | split a | getShare a | isValid a | recover a =>
    exact congrArg _ BitVec.extractLsb'_append_eq_left
  | lagrange p => exact congrArg Instr.lagrange BitVec.extractLsb'_append_eq_right

/-- Operand bits of format B1 are operand A and zeros (30_encoding R91). -/
theorem operandBits_b1 {l : BitVec 24} (h : l &&& Format.b1.reserved = 0) : l.extractLsb' 16 8 ++ 0#16 = l := by
  have hz : l.extractLsb' 0 16 = 0#16 := (and_reserved_b1_iff l).1 h
  rw [← hz]
  exact extractLsb'_append_extractLsb'_eq_self (m := 8) (n := 16) l

/-- Operand bits of format B2 are operands A and B and zeros (30_encoding R91). -/
theorem operandBits_b2 {l : BitVec 24} (h : l &&& Format.b2.reserved = 0) :
    l.extractLsb' 16 8 ++ (l.extractLsb' 8 8 ++ 0#8) = l := by
  have hz : l.extractLsb' 0 8 = 0#8 := (and_reserved_b2_iff l).1 h
  have hlow : l.extractLsb' 8 8 ++ l.extractLsb' 0 8 = l.extractLsb' 0 16 :=
    BitVec.extractLsb'_append_extractLsb'_eq_extractLsb' rfl
  rw [← hz, hlow]
  exact extractLsb'_append_extractLsb'_eq_self (m := 8) (n := 16) l

/-- Operand bits of format X are zeros and IDX (30_encoding R91). -/
theorem operandBits_x {l : BitVec 24} (h : l &&& Format.x.reserved = 0) : 0#8 ++ l.extractLsb' 0 16 = l := by
  have hz : l.extractLsb' 16 8 = 0#8 := (and_reserved_x_iff l).1 h
  rw [← hz]
  exact extractLsb'_append_extractLsb'_eq_self (m := 8) (n := 16) l

/-- A command read from operand bits without a reserved one has these operand bits (30_encoding R91, R92). -/
theorem operandBits_read {m : Mnemonic} {l : BitVec 24} (h : l &&& m.format.reserved = 0) :
    (m.read l).operandBits = l := by
  cases m with
  | nop | polyAdd | polyMul => exact ((and_reserved_n_iff l).1 h).symm
  | gfAdd | gfSub | gfMul | gfDiv => exact operandBits_b2 h
  | polyEval | split | getShare | isValid | recover => exact operandBits_b1 h
  | lagrange => exact operandBits_x h

/-- Decoding undoes encoding (30_encoding R94, R97). -/
theorem decode_encode (i : Instr) : decode (encode i) = .instr i := by
  rw [encode_eq_append, decode_eq_instr_iff]
  refine ⟨i.toAsm.mnemonic, opcOf_append _ _, ?_, ?_⟩
  · rw [operandBits_append]
    exact operandBits_and_reserved i
  · rw [operandBits_append]
    exact read_operandBits i

/-- Encoding undoes decoding (30_encoding R94, R97). -/
theorem encode_of_decode {w : Word} {i : Instr} (h : decode w = .instr i) : encode i = w := by
  obtain ⟨m, ho, hz, rfl⟩ := (decode_eq_instr_iff w i).1 h
  rw [encode_eq_append, mnemonic_read, operandBits_read hz, ← ho, opcOf_append_operandBits]

/-- Settles O1: by format, the operand bits of a command keep its operands. -/
theorem decodeOfEncodeIsTheCommand : Obligations.DecodeOfEncodeIsTheCommand := fun i _ => decode_encode i

/-- Settles O2: the opcode and the operand bits of the word are those of the command read from it. -/
theorem encodeOfDecodeIsTheWord : Obligations.EncodeOfDecodeIsTheWord := fun _ _ => encode_of_decode

/-! ### The opcode map -/

/-- The row of a mnemonic: the mask looks at the opcode and the reserved bits, the pattern has the opcode and zeros
(30_encoding R93). -/
def Mnemonic.row (m : Mnemonic) : OpcodeRow := ⟨m, m.opc ++ 0#24, 0xFF#8 ++ m.format.reserved⟩

theorem eq_row_of_mem : ∀ r ∈ opcodeMap, r = r.mnemonic.row := by decide

theorem row_mem_opcodeMap (m : Mnemonic) : m.row ∈ opcodeMap := by cases m <;> decide

theorem row_selects_iff (m : Mnemonic) (w : Word) :
    m.row.selects w = true ↔ opcOf w = m.opc ∧ operandBits w &&& m.format.reserved = 0 := by
  have hmask : w &&& m.row.mask = opcOf w ++ (operandBits w &&& m.format.reserved) := by
    conv_lhs => rw [← opcOf_append_operandBits w]
    exact BitVec.and_append.trans (congrArg (· ++ _) BitVec.and_allOnes)
  rw [OpcodeRow.selects, beq_iff_eq, hmask]
  exact append_eq_append_iff

/-- A row selects the words that decode to its mnemonic (30_encoding R93, R94). -/
theorem selects_iff_decodes {r : OpcodeRow} (hr : r ∈ opcodeMap) (w : Word) :
    r.selects w = true ↔ ∃ i, decode w = .instr i ∧ i.toAsm.mnemonic = r.mnemonic := by
  rw [eq_row_of_mem r hr, row_selects_iff]
  constructor
  · rintro ⟨ho, hz⟩
    exact ⟨_, (decode_eq_instr_iff w _).2 ⟨_, ho, hz, rfl⟩, mnemonic_read _ _⟩
  · rintro ⟨i, hi, hm⟩
    obtain ⟨m, ho, hz, rfl⟩ := (decode_eq_instr_iff w i).1 hi
    rw [mnemonic_read] at hm
    exact hm ▸ ⟨ho, hz⟩

/-- No two rows have one opcode (30_encoding R93). -/
theorem eq_of_opc_eq : ∀ r ∈ opcodeMap, ∀ r' ∈ opcodeMap, r.mnemonic.opc = r'.mnemonic.opc → r = r' := by decide

theorem opcOf_of_selects {r : OpcodeRow} (hr : r ∈ opcodeMap) {w : Word} (h : r.selects w = true) :
    opcOf w = r.mnemonic.opc := by
  rw [eq_row_of_mem r hr] at h
  exact ((row_selects_iff _ w).1 h).1

/-- Settles O3: a row looks at the opcode and the reserved bits, as the decoder does, and its opcode is its own. -/
theorem opcodeMapSelectsWhatDecodes : Obligations.OpcodeMapSelectsWhatDecodes :=
  ⟨fun w _ hr => selects_iff_decodes hr w, fun _ r hr r' hr' h h' =>
    eq_of_opc_eq r hr r' hr' ((opcOf_of_selects hr h).symm.trans (opcOf_of_selects hr' h'))⟩

/-! ### The assembler -/

theorem instr_eq_none {l : AsmLine} (h : l.wellFormed = false) : l.instr = none := by
  simp only [AsmLine.instr, h, Bool.false_eq_true, if_false]

theorem wellFormed_one_b1 {m : Mnemonic} (hf : m.format = .b1) (a : Nat) :
    (AsmLine.mk m (.one a)).wellFormed = decide (a < 256) := by
  rw [AsmLine.wellFormed, hf]

theorem wellFormed_two_b2 {m : Mnemonic} (hf : m.format = .b2) (a b : Nat) :
    (AsmLine.mk m (.two a b)).wellFormed = (decide (a < 256) && decide (b < 256)) := by
  rw [AsmLine.wellFormed, hf]

theorem wellFormed_one_x {m : Mnemonic} (hf : m.format = .x) (p : Nat) :
    (AsmLine.mk m (.one p)).wellFormed = decide (p < 65536) := by
  rw [AsmLine.wellFormed, hf]

/-- The family Asm, over all commands. -/
theorem asm_statement (i : Instr) : Laws.Asm.Statement i := by
  cases i with
  | nop => exact Laws.Asm.nop
  | gfAdd a b => exact Laws.Asm.gfAdd a b
  | gfSub a b => exact Laws.Asm.gfSub a b
  | gfMul a b => exact Laws.Asm.gfMul a b
  | gfDiv a b => exact Laws.Asm.gfDiv a b
  | polyAdd => exact Laws.Asm.polyAdd
  | polyMul => exact Laws.Asm.polyMul
  | polyEval x => exact Laws.Asm.polyEval x
  | split t => exact Laws.Asm.split t
  | getShare id => exact Laws.Asm.getShare id
  | isValid slot => exact Laws.Asm.isValid slot
  | lagrange p => exact Laws.Asm.lagrange p
  | recover t => exact Laws.Asm.recover t

theorem instr_toAsm (i : Instr) : i.toAsm.instr = some i := by
  rw [AsmLine.instr, if_pos (asm_statement i).1]
  cases i with
  | nop | polyAdd | polyMul => rfl
  | gfAdd a b | gfSub a b | gfMul a b | gfDiv a b => simp only [Instr.toAsm, BitVec.ofNat_toNat, BitVec.setWidth_eq]
  | polyEval a | split a | getShare a | isValid a | recover a | lagrange a =>
    simp only [Instr.toAsm, BitVec.ofNat_toNat, BitVec.setWidth_eq]

/-- An operand in range survives its bit vector. -/
theorem toNat_ofNat_of_lt {n a : Nat} (h : a < 2 ^ n) : (BitVec.ofNat n a).toNat = a := by
  rw [BitVec.toNat_ofNat, Nat.mod_eq_of_lt h]

theorem toAsm_of_instr {l : AsmLine} {i : Instr} (h : l.instr = some i) : i.toAsm = l := by
  obtain ⟨m, ops⟩ := l
  simp only [AsmLine.instr] at h
  split_ifs at h with hwf
  split at h
  case h_1 | h_6 | h_7 =>
    cases h
    rfl
  case h_2 a b | h_3 a b | h_4 a b | h_5 a b =>
    obtain ⟨ha, hb⟩ := Bool.and_eq_true_iff.1 hwf
    cases h
    simp only [Instr.toAsm, toNat_ofNat_of_lt (n := 8) (of_decide_eq_true ha),
      toNat_ofNat_of_lt (n := 8) (of_decide_eq_true hb)]
  case h_8 a | h_9 a | h_10 a | h_11 a | h_13 a =>
    cases h
    simp only [Instr.toAsm, toNat_ofNat_of_lt (n := 8) (of_decide_eq_true hwf)]
  case h_12 p =>
    cases h
    simp only [Instr.toAsm, toNat_ofNat_of_lt (n := 16) (of_decide_eq_true hwf)]
  case h_14 => cases h

theorem encodeN_toNat {k : Nat} (hk : k < 256) : (encodeN k).toNat = k * 2 ^ 24 := by
  rw [encodeN_eq_append, Machine.toNat_append_eq_add, toNat_ofNat_of_lt hk, BitVec.toNat_zero, Nat.add_zero]

theorem encodeB1_toNat {k : Nat} (hk : k < 256) (a : Byte) : (encodeB1 k a).toNat = k * 2 ^ 24 + a.toNat * 2 ^ 16 := by
  rw [encodeB1_eq_append]
  simp only [Machine.toNat_append_eq_add, toNat_ofNat_of_lt (n := 8) hk, BitVec.toNat_zero]
  omega

theorem encodeB2_toNat {k : Nat} (hk : k < 256) (a b : Byte) :
    (encodeB2 k a b).toNat = k * 2 ^ 24 + a.toNat * 2 ^ 16 + b.toNat * 2 ^ 8 := by
  rw [encodeB2_eq_append]
  simp only [Machine.toNat_append_eq_add, toNat_ofNat_of_lt (n := 8) hk, BitVec.toNat_zero]
  omega

theorem encodeX_toNat {k : Nat} (hk : k < 256) (p : Half) : (encodeX k p).toNat = k * 2 ^ 24 + p.toNat := by
  rw [encodeX_eq_append]
  simp only [Machine.toNat_append_eq_add, toNat_ofNat_of_lt (n := 8) hk, BitVec.toNat_zero]
  omega

/-- Settles O4: the assembler's check by format; each command is its line's; the words by format. -/
theorem assemblerRefusesAndEncodesByTheTable : Obligations.AssemblerRefusesAndEncodesByTheTable := by
  refine ⟨fun m a hf ha => instr_eq_none ?_, fun m a b hf hab => instr_eq_none ?_, fun m p hf hp => instr_eq_none ?_,
    fun l i => ⟨toAsm_of_instr, fun h => h ▸ instr_toAsm i⟩, fun a b => ?_, encodeX_toNat (by decide)⟩
  · rw [wellFormed_one_b1 hf]
    exact decide_eq_false (by omega)
  · rw [wellFormed_two_b2 hf, ← Bool.decide_and]
    exact decide_eq_false (by omega)
  · rw [wellFormed_one_x hf]
    exact decide_eq_false (by omega)
  · exact ⟨rfl, encodeB2_toNat (by decide) a b, encodeB2_toNat (by decide) a b, encodeB2_toNat (by decide) a b,
      encodeB2_toNat (by decide) a b, encodeN_toNat (by decide), encodeN_toNat (by decide), encodeB1_toNat (by decide) a,
      encodeB1_toNat (by decide) a, encodeB1_toNat (by decide) a, encodeB1_toNat (by decide) a,
      encodeB1_toNat (by decide) a⟩

/-! ### ILLEGAL words -/

theorem decode_eq_unassigned_iff (w : Word) :
    decode w = .illegal .unassignedOpcode ↔ ∀ m : Mnemonic, opcOf w ≠ m.opc := by
  constructor
  · intro h m ho
    rw [decode_of_opc ho] at h
    split_ifs at h
    injection h with h
    cases h
  · intro h
    exact (exists_opc_or_unassigned w).resolve_left fun ⟨m, ho⟩ => h m ho

/-- The unassigned opcodes (30_encoding R95). -/
theorem forall_ne_opc_iff (o : Byte) :
    (∀ m : Mnemonic, o ≠ m.opc) ↔
      ((0x05 ≤ o.toNat ∧ o.toNat ≤ 0x0F) ∨ (0x13 ≤ o.toNat ∧ o.toNat ≤ 0x1F) ∨
        (0x23 ≤ o.toNat ∧ o.toNat ≤ 0x2F) ∨ 0x32 ≤ o.toNat) := by
  have hrows : (∀ m : Mnemonic, o ≠ m.opc) ↔ ∀ r ∈ opcodeMap, o ≠ r.mnemonic.opc :=
    ⟨fun h r _ => h r.mnemonic, fun h m => h _ (row_mem_opcodeMap m)⟩
  rw [hrows]
  simp only [opcodeMap, List.forall_mem_cons, List.not_mem_nil, false_imp_iff, implies_true, Mnemonic.opc, ne_eq,
    BitVec.toNat_eq, BitVec.toNat_ofNat, and_true]
  omega

theorem decode_eq_reserved_iff (w : Word) :
    decode w = .illegal .reservedBits ↔
      decode w ≠ .illegal .unassignedOpcode ∧ ∀ r ∈ opcodeMap, r.selects w = false := by
  constructor
  · intro h
    refine ⟨by simp [h], fun r hr => Bool.eq_false_iff.2 fun hs => ?_⟩
    obtain ⟨i, hi, -⟩ := (selects_iff_decodes hr w).1 hs
    simp [h] at hi
  · rintro ⟨hu, hno⟩
    cases hd : decode w with
    | instr i =>
      have hs := (selects_iff_decodes (row_mem_opcodeMap i.toAsm.mnemonic) w).2 ⟨i, hd, rfl⟩
      simp [hno _ (row_mem_opcodeMap i.toAsm.mnemonic)] at hs
    | illegal why =>
      cases why with
      | unassignedOpcode => exact absurd hd hu
      | reservedBits => rfl

end Sys2Proof

namespace Sys2Proof.Machine

theorem coreTurn_of_illegal {s : State} {why : IllegalWord} (hb : s.busy = true) (hd : decode s.cmd = .illegal why) :
    coreTurn s = .next (finish .illegalCommand s) := by
  rw [coreTurn, if_pos hb, completeInFlight, hd, raise_eq]

/-- Settles O6: the opcode or the opcode map says which words; CMD takes any word, and the core's turn raises. -/
theorem illegalWordsCompleteWithCodeTen : Obligations.IllegalWordsCompleteWithCodeTen := by
  refine ⟨fun w => ?_, decode_eq_reserved_iff, fun w s hb => memWrite_reg (n := 5) w rfl (.inl hb),
    fun s why hb hd => coreTurn_of_illegal hb hd, rfl⟩
  rw [decode_eq_unassigned_iff, forall_ne_opc_iff, opcOf_toNat]

/-- Settles O5: the decoder runs on the words. -/
theorem writtenOutWordsDecode : Obligations.WrittenOutWordsDecode := by
  unfold Obligations.WrittenOutWordsDecode
  decide

/-! ### WAIT -/

/-- A read of STATUS through the host window is answered by the STATUS word, BUSY or not (20_memory R70, 70_reset R248). -/
theorem hostRead_status (s : State) : hostRead (s.cfg.base + 0x000010) 4 s = s.answer (.readOk s.statusWord) := by
  rw [hostRead_base_add s (by decide), memRead_reg (n := 4) (r := .status) rfl (.inr rfl)]
  rfl

theorem hostPoll_eq (s : State) :
    hostPoll s = if s.busy then { s.answer (.readOk s.statusWord) with agenda := .core :: .poll :: s.agenda }
      else s.answer (.readOk s.statusWord) := by
  rw [hostPoll, hostRead_status]
  rfl

/-- Settles O58: the poll is the next event; it reads STATUS, and BUSY says whether it comes again. -/
theorem waitPollsUntilIdle : Obligations.WaitPollsUntilIdle := by
  intro s rest ha
  rw [step_external (by simp) ha, external, hostPoll_eq]
  exact ⟨fun hb => congrArg _ (if_neg (Bool.eq_false_iff.1 hb)), fun hb => congrArg _ (if_pos hb)⟩

end Sys2Proof.Machine

/-! # Proofs: the field (40_field)

The product of R120 distributes over XOR on both sides, so its laws are decided on the eight powers of two. The EXP ROM holds
its powers of 3, so the ROM formulas of product and quotient compute in it. -/

namespace Sys2Proof.Machine

/-! ### Maps of bytes that distribute over XOR -/

/-- f distributes over the field's addition (40_field R124). -/
def XorLinear (f : Byte → Byte) : Prop := ∀ u v, f (u ^^^ v) = f u ^^^ f v

theorem XorLinear.comp {f g : Byte → Byte} (hf : XorLinear f) (hg : XorLinear g) : XorLinear (fun x => f (g x)) :=
  fun u v => (congrArg f (hg u v)).trans (hf (g u) (g v))

theorem xorLinear_id : XorLinear (fun x => x) := fun _ _ => rfl

theorem XorLinear.zero {f : Byte → Byte} (hf : XorLinear f) : f 0#8 = 0#8 := by
  simpa using hf 0#8 0#8

theorem XorLinear.fieldSum {f : Byte → Byte} (hf : XorLinear f) (l : List Byte) :
    f (fieldSum l) = Machine.fieldSum (l.map f) := by
  induction l with
  | nil => exact hf.zero
  | cons c cs ih => rw [Machine.fieldSum, hf, ih]; rfl

/-- A byte is the sum of the powers of two at its bits. -/
theorem eq_fieldSum_bits (x : Byte) :
    x = fieldSum ((List.range 8).map fun i => if x.getLsbD i then 1#8 <<< i else 0#8) := by
  have h : ∀ n, n < 256 → BitVec.ofNat 8 n =
      fieldSum ((List.range 8).map fun i => if (BitVec.ofNat 8 n).getLsbD i then 1#8 <<< i else 0#8) := by
    decide +kernel
  simpa using h x.toNat x.isLt

/-- Two such maps agree as soon as they agree on the powers of two. -/
theorem XorLinear.ext {f g : Byte → Byte} (hf : XorLinear f) (hg : XorLinear g)
    (h : ∀ i, i < 8 → f (1#8 <<< i) = g (1#8 <<< i)) (x : Byte) : f x = g x := by
  rw [eq_fieldSum_bits x, hf.fieldSum, hg.fieldSum, List.map_map, List.map_map]
  refine congrArg Machine.fieldSum (List.map_congr_left fun i hi => ?_)
  simp only [Function.comp_apply]
  split_ifs
  · exact h i (List.mem_range.1 hi)
  · rw [hf.zero, hg.zero]

/-! ### The product without the ROMs -/

/-- Folds whose steps add up to the step of a third fold add up to that fold. -/
theorem foldl_xor {w : Nat} {f g h : BitVec w → Nat → BitVec w} (H : ∀ u v i, h (u ^^^ v) i = f u i ^^^ g v i)
    (l : List Nat) (u v : BitVec w) : l.foldl h (u ^^^ v) = l.foldl f u ^^^ l.foldl g v := by
  induction l generalizing u v with
  | nil => rfl
  | cons i l ih => rw [List.foldl_cons, H, ih]; rfl

/-- Adding c under the sum of two conditions is adding it under each: twice is not at all. -/
theorem ite_xor {w : Nat} (p q : Bool) (u v c : BitVec w) :
    (if (p ^^ q) = true then u ^^^ v ^^^ c else u ^^^ v) =
      (if p = true then u ^^^ c else u) ^^^ (if q = true then v ^^^ c else v) := by
  match p, q with
  | false, false => rfl
  | false, true => exact BitVec.xor_assoc u v c
  | true, false => change u ^^^ v ^^^ c = u ^^^ c ^^^ v; ac_rfl
  | true, true =>
    calc u ^^^ v = u ^^^ v ^^^ (c ^^^ c) := by rw [BitVec.xor_self, BitVec.xor_zero]
      _ = u ^^^ c ^^^ (v ^^^ c) := by ac_rfl

theorem carrylessProduct_xor_left (a b c : Byte) :
    carrylessProduct (a ^^^ b) c = carrylessProduct a c ^^^ carrylessProduct b c := by
  refine foldl_xor (fun u v i => ?_) _ 0 0
  split_ifs
  · rw [BitVec.setWidth_xor, BitVec.shiftLeft_xor_distrib]; ac_rfl
  · rfl

theorem carrylessProduct_xor_right (a b c : Byte) :
    carrylessProduct a (b ^^^ c) = carrylessProduct a b ^^^ carrylessProduct a c := by
  refine foldl_xor (fun u v i => ?_) _ 0 0
  rw [BitVec.getLsbD_xor, ite_xor]

theorem reduce11B_xor (u v : BitVec 16) : reduce11B (u ^^^ v) = reduce11B u ^^^ reduce11B v := by
  refine (congrArg (BitVec.setWidth 8) (foldl_xor (fun u v i => ?_) _ u v)).trans BitVec.setWidth_xor
  rw [BitVec.getLsbD_xor, ite_xor]

theorem xorLinear_fieldProduct_left (b : Byte) : XorLinear (fun a => fieldProduct a b) := fun u v => by
  simp only [fieldProduct, carrylessProduct_xor_left, reduce11B_xor]

theorem xorLinear_fieldProduct_right (a : Byte) : XorLinear (fieldProduct a) := fun u v => by
  simp only [fieldProduct, carrylessProduct_xor_right, reduce11B_xor]

theorem fieldProduct_one (a : Byte) : fieldProduct a 1#8 = a :=
  (xorLinear_fieldProduct_left 1#8).ext xorLinear_id (by decide +kernel) a

/-- Associativity: each side is linear in each of the three factors, which leaves the powers of two to decide. -/
theorem fieldProduct_assoc (a b c : Byte) :
    fieldProduct (fieldProduct a b) c = fieldProduct a (fieldProduct b c) := by
  have hpow : ∀ i, i < 8 → ∀ j, j < 8 → ∀ k, k < 8 →
      fieldProduct (fieldProduct (1#8 <<< i) (1#8 <<< j)) (1#8 <<< k) =
        fieldProduct (1#8 <<< i) (fieldProduct (1#8 <<< j) (1#8 <<< k)) := by decide +kernel
  refine XorLinear.ext ((xorLinear_fieldProduct_left c).comp (xorLinear_fieldProduct_left b))
    (xorLinear_fieldProduct_left _) (fun i hi => ?_) a
  refine XorLinear.ext ((xorLinear_fieldProduct_left c).comp (xorLinear_fieldProduct_right _))
    ((xorLinear_fieldProduct_right _).comp (xorLinear_fieldProduct_left c)) (fun j hj => ?_) b
  exact XorLinear.ext (xorLinear_fieldProduct_right _)
    ((xorLinear_fieldProduct_right _).comp (xorLinear_fieldProduct_right _)) (hpow i hi j hj) c

/-! ### The ROMs -/

theorem logRom_expRom {i : Nat} (hi : i < 255) : logRom (expRom i) = i := by
  have h : ∀ i, i < 255 → logRom (expRom i) = i := by decide +kernel
  exact h i hi

theorem logRom_lt (a : Byte) : logRom a < 255 := by
  have h : ∀ n, n < 256 → logRom (BitVec.ofNat 8 n) < 255 := by decide +kernel
  simpa using h a.toNat a.isLt

/-- EXP goes once around the nonzero bytes, each entry 3 times the one before (40_field R121). -/
theorem expRom_succ_mod (n : Nat) : expRom ((n + 1) % 255) = fieldProduct (expRom (n % 255)) 3#8 := by
  have h : ∀ i, i < 255 → expRom ((i + 1) % 255) = fieldProduct (expRom i) 3#8 := by decide +kernel
  rw [← h (n % 255) (Nat.mod_lt n (by decide)), Nat.mod_add_mod]

theorem fieldProduct_expRom (m n : Nat) :
    fieldProduct (expRom (m % 255)) (expRom (n % 255)) = expRom ((m + n) % 255) := by
  induction n with
  | zero => exact fieldProduct_one _
  | succ n ih => rw [expRom_succ_mod, ← fieldProduct_assoc, ih, ← expRom_succ_mod, Nat.add_assoc]

theorem expRom_logRom_mod {a : Byte} (ha : a ≠ 0#8) : expRom (logRom a % 255) = a := by
  rw [Nat.mod_eq_of_lt (logRom_lt a), expRom_logRom ha]

/-! ### Product and quotient -/

/-- The ROM's product is the field's: nonzero factors are powers of 3. -/
theorem gfMul_eq_fieldProduct (a b : Byte) : gfMul a b = fieldProduct a b := by
  by_cases ha : a = 0#8
  · rw [ha, gfMul_zero_left, (xorLinear_fieldProduct_left b).zero]
  by_cases hb : b = 0#8
  · rw [hb, gfMul_zero_right, (xorLinear_fieldProduct_right a).zero]
  rw [gfMul_of_ne_zero ha hb, ← fieldProduct_expRom, expRom_logRom_mod ha, expRom_logRom_mod hb]

theorem gfMul_expRom (m n : Nat) : gfMul (expRom (m % 255)) (expRom (n % 255)) = expRom ((m + n) % 255) := by
  rw [gfMul_eq_fieldProduct, fieldProduct_expRom]

theorem gfMul_comm (a b : Byte) : gfMul a b = gfMul b a := by
  simp only [gfMul, or_comm, Nat.add_comm]

theorem gfMul_assoc (a b c : Byte) : gfMul (gfMul a b) c = gfMul a (gfMul b c) := by
  simp only [gfMul_eq_fieldProduct, fieldProduct_assoc]

theorem gfMul_gfAdd (a b c : Byte) : gfMul a (gfAdd b c) = gfAdd (gfMul a b) (gfMul a c) := by
  simp only [gfMul_eq_fieldProduct, gfAdd, xorLinear_fieldProduct_right a b c]

@[simp] theorem gfMul_one_right (a : Byte) : gfMul a 1#8 = a := by
  rw [gfMul_eq_fieldProduct, fieldProduct_one]

@[simp] theorem gfMul_one_left (a : Byte) : gfMul 1#8 a = a := by rw [gfMul_comm, gfMul_one_right]

/-- The quotient of nonzero bytes, its exponent without a sign (40_field R127). -/
theorem gfDiv_of_ne_zero {a b : Byte} (ha : a ≠ 0#8) (hb : b ≠ 0#8) :
    gfDiv a b = some (expRom ((logRom a + (255 - logRom b)) % 255)) := by
  have hlog := logRom_lt b
  rw [gfDiv, if_neg ha, if_neg hb]
  refine congrArg (fun e => some (expRom e)) ?_
  split_ifs <;> omega

/-- The byte that undoes multiplication by b, for b not 0: "1 over b". -/
def gfInv (b : Byte) : Byte := expRom ((255 - logRom b) % 255)

/-- Division by a nonzero byte is multiplication by its inverse (40_field R132). -/
theorem gfDiv_eq_gfMul_gfInv (a : Byte) {b : Byte} (hb : b ≠ 0#8) : gfDiv a b = some (gfMul a (gfInv b)) := by
  by_cases ha : a = 0#8
  · rw [ha, gfDiv_zero_left, gfMul_zero_left]
  · rw [gfDiv_of_ne_zero ha hb, ← gfMul_expRom, expRom_logRom_mod ha, gfInv]

theorem gfInv_gfMul {b : Byte} (hb : b ≠ 0#8) : gfMul (gfInv b) b = 1#8 := by
  have hlog := logRom_lt b
  calc gfMul (gfInv b) b = gfMul (gfInv b) (expRom (logRom b % 255)) := by rw [expRom_logRom_mod hb]
    _ = expRom ((255 - logRom b + logRom b) % 255) := gfMul_expRom _ _
    _ = 1#8 := by rw [Nat.sub_add_cancel hlog.le]; rfl

/-- The quotient times the divisor is the dividend. -/
theorem gfMul_gfInv_gfMul (a : Byte) {b : Byte} (hb : b ≠ 0#8) : gfMul (gfMul a (gfInv b)) b = a := by
  rw [gfMul_assoc, gfInv_gfMul hb, gfMul_one_right]

/-- The powers of 3 are EXP (40_field R121). -/
theorem fieldPow_three (n : Nat) : fieldPow 3#8 n = expRom (n % 255) := by
  induction n with
  | zero => rfl
  | succ n ih => rw [fieldPow, ih, gfMul_eq_fieldProduct, expRom_succ_mod]

/-! ### The commands -/

theorem exec_gfDiv_some {a b q : Byte} (h : gfDiv a b = some q) (s : State) :
    exec (.gfDiv a b) s = .next { s with result := q, err := .ok, done := true, busy := false, held := [] } := by
  rw [exec, execGfDiv, h]; rfl

theorem exec_gfDiv_none {a b : Byte} (h : gfDiv a b = none) (s : State) :
    exec (.gfDiv a b) s = .next { s with err := .divisionByZero, done := true, busy := false, held := [] } := by
  rw [exec, execGfDiv, h]; rfl

/-- Settles O21: addition and subtraction are XOR by definition. -/
theorem gfAddAndSubAreXor : Obligations.GfAddAndSubAreXor := fun _ _ _ => ⟨rfl, rfl, rfl, rfl⟩

/-- Settles O22: the ROM's product, which the command leaves in RESULT, is the field's. -/
theorem gfMulIsTheFieldProduct : Obligations.GfMulIsTheFieldProduct := fun a b s => by
  rw [← gfMul_eq_fieldProduct]; rfl

/-- Settles O23: the quotient is the dividend times the divisor's inverse. -/
theorem gfDivUndoesTheProduct : Obligations.GfDivUndoesTheProduct := by
  refine fun a b s => ⟨fun hb => ⟨gfMul a (gfInv b), ?_, exec_gfDiv_some (gfDiv_eq_gfMul_gfInv a hb) s⟩, ?_, ?_⟩
  · rw [← gfMul_eq_fieldProduct, gfMul_gfInv_gfMul a hb]
  · rintro rfl; exact exec_gfDiv_some (gfDiv_zero_left b) s
  · exact fun ha hb => exec_gfDiv_none (gfDiv_eq_none.2 ⟨ha, hb⟩) s

/-- The exponents of R126 and R127. -/
theorem gfMul_and_gfDiv_eq_expRom {a b : Byte} (ha : a ≠ 0#8) (hb : b ≠ 0#8) :
    gfMul a b = expRom ((logRom a + logRom b) % 255) ∧
    ∃ e : Nat, e < 255 ∧ (e : Int) = ((logRom a : Int) - (logRom b : Int)) % 255 ∧ gfDiv a b = some (expRom e) := by
  have hlog := logRom_lt b
  exact ⟨gfMul_of_ne_zero ha hb, (logRom a + (255 - logRom b)) % 255, by omega, by omega, gfDiv_of_ne_zero ha hb⟩

/-- Settles O24: the laws of the product, from the field's; those of the quotient, through the inverse. -/
theorem fieldLawsHold : Obligations.FieldLawsHold := by
  refine ⟨fun _ _ => gfMul_and_gfDiv_eq_expRom, ?_, gfMul_eq_fieldProduct, ?_, ?_, fun a ha => gfDiv_eq_none.2 ⟨ha, rfl⟩,
    gfDiv_zero_left⟩
  · exact fun a b c => ⟨BitVec.xor_comm a b, BitVec.xor_assoc a b c, BitVec.xor_zero, BitVec.xor_self⟩
  · exact fun a b c => ⟨gfMul_comm a b, gfMul_assoc a b c, gfMul_gfAdd a b c, gfMul_one_right a, gfMul_zero_right a⟩
  · intro a b hb
    have hinv : gfDiv 1#8 b = some (gfInv b) := by rw [gfDiv_eq_gfMul_gfInv 1#8 hb, gfMul_one_left]
    exact ⟨gfMul a (gfInv b), gfInv b, gfDiv_eq_gfMul_gfInv a hb, hinv, gfMul_gfInv_gfMul a hb, rfl⟩

/-- Settles O25: the recurrence is read off the ROM; the powers of 3 are the field's. -/
theorem romsFollowTheirRecurrence : Obligations.RomsFollowTheirRecurrence := by
  refine ⟨rfl, ?_, fun i hi => ?_, by decide +kernel, fun i hi => logRom_expRom (Nat.lt_succ_of_le hi),
    fun a _ => Nat.le_of_lt_succ (logRom_lt a), rfl, rfl⟩
  · decide +kernel
  · rw [fieldPow_three, Nat.mod_eq_of_lt (by omega)]

end Sys2Proof.Machine

/-! # Proofs: the polynomial engine (41_polynomial)

The evaluation by a running power is Horner's, which follows the list of coefficients; so do the power sum and the laws of
evaluation. A product's coefficients are the convolution, which follows the second operand as the engine's loop does. -/

namespace Sys2Proof.Machine

/-! ### The product distributes over XOR -/

theorem xorLinear_gfMul_right (a : Byte) : XorLinear (gfMul a) := gfMul_gfAdd a

theorem gfMul_xor_left (a b c : Byte) : gfMul (a ^^^ b) c = gfMul a c ^^^ gfMul b c := by
  rw [gfMul_comm, xorLinear_gfMul_right, gfMul_comm c, gfMul_comm c]

theorem xorLinear_gfMul_left (b : Byte) : XorLinear (fun a => gfMul a b) := fun u v => gfMul_xor_left u v b

theorem gfMul_right_comm (a b c : Byte) : gfMul (gfMul a b) c = gfMul (gfMul a c) b := by
  rw [gfMul_assoc, gfMul_comm b, gfMul_assoc]

/-! ### Field sums -/

theorem fieldSum_append (l l' : List Byte) : fieldSum (l ++ l') = fieldSum l ^^^ fieldSum l' := by
  induction l with
  | nil => exact BitVec.zero_xor.symm
  | cons c l ih => rw [List.cons_append, fieldSum, ih, fieldSum, BitVec.xor_assoc]

/-- A sum over 0..n-1 may take its last term apart. -/
theorem fieldSum_range_succ (n : Nat) (f : Nat → Byte) :
    fieldSum ((List.range (n + 1)).map f) = fieldSum ((List.range n).map f) ^^^ f n := by
  rw [List.range_succ, List.map_append, fieldSum_append]
  exact congrArg _ BitVec.xor_zero

/-- A sum over 0..n may take its first term apart. -/
theorem fieldSum_range_succ' (n : Nat) (f : Nat → Byte) :
    fieldSum ((List.range (n + 1)).map f) = f 0 ^^^ fieldSum ((List.range n).map fun k => f (k + 1)) := by
  rw [List.range_succ_eq_map, List.map_cons, List.map_map]; rfl

/-- The order of the terms does not matter. -/
theorem fieldSum_range_reflect (n : Nat) (f : Nat → Byte) :
    fieldSum ((List.range n).map f) = fieldSum ((List.range n).map fun k => f (n - 1 - k)) := by
  induction n with
  | zero => rfl
  | succ n ih =>
    rw [fieldSum_range_succ, fieldSum_range_succ', ih, BitVec.xor_comm]
    simp only [Nat.add_sub_cancel, Nat.sub_zero, Nat.sub_sub, Nat.add_comm 1]

theorem fieldSum_map_eq_zero (l : List Nat) {f : Nat → Byte} (h : ∀ k, f k = 0#8) : fieldSum (l.map f) = 0#8 := by
  induction l with
  | nil => rfl
  | cons k l ih => rw [List.map_cons, fieldSum, ih, h, BitVec.xor_zero]

/-! ### Evaluation -/

/-- What the running power adds to the accumulator is Horner's value (41_polynomial R143, R147). -/
theorem pevalLoop_eq_horner (x : Byte) (c : List Byte) (acc xp : Byte) :
    pevalLoop x c acc xp = acc ^^^ gfMul (horner c x) xp := by
  induction c generalizing acc xp with
  | nil => rw [pevalLoop, horner, gfMul_zero_left, BitVec.xor_zero]
  | cons c cs ih =>
    calc pevalLoop x (c :: cs) acc xp
        = acc ^^^ gfMul c xp ^^^ gfMul (horner cs x) (gfMul xp x) := ih _ _
      _ = acc ^^^ gfMul c xp ^^^ gfMul (gfMul (horner cs x) x) xp := by rw [← gfMul_assoc, gfMul_right_comm]
      _ = acc ^^^ gfMul (gfMul (horner cs x) x ^^^ c) xp := by
        rw [gfMul_xor_left]; ac_rfl

theorem horner_eq_peval (c : List Byte) (x : Byte) : horner c x = peval c x := by
  rw [peval, pevalLoop_eq_horner, gfMul_one_right, BitVec.zero_xor]

@[simp] theorem peval_nil (x : Byte) : peval [] x = 0#8 := rfl

/-- Evaluation by the list of coefficients: the constant term, and x times the rest. -/
theorem peval_cons (c : Byte) (cs : List Byte) (x : Byte) : peval (c :: cs) x = c ^^^ gfMul (peval cs x) x := by
  rw [← horner_eq_peval, ← horner_eq_peval, BitVec.xor_comm]; rfl

theorem powerSum_cons (c : Byte) (cs : List Byte) (x : Byte) : powerSum (c :: cs) x = c ^^^ gfMul (powerSum cs x) x := by
  rw [powerSum, List.length_cons, fieldSum_range_succ', powerSum, (xorLinear_gfMul_left x).fieldSum, List.map_map]
  refine congrArg₂ _ (gfMul_one_right c) (congrArg fieldSum (List.map_congr_left fun k _ => ?_))
  exact (gfMul_assoc _ _ _).symm

/-- The running power computes Σ coefficient_k · x^k (41_polynomial R143). -/
theorem peval_eq_powerSum (c : List Byte) (x : Byte) : peval c x = powerSum c x := by
  induction c with
  | nil => rfl
  | cons c cs ih => rw [peval_cons, ih, powerSum_cons]

/-! ### Sums -/

theorem padd_comm (a b : List Byte) : padd a b = padd b a := by
  simp only [padd, gfAdd, max_comm, BitVec.xor_comm]

/-- Polynomials of one length with the same coefficients are the same (41_polynomial R140). -/
theorem ext_getD_zero {a b : List Byte} (hlen : a.length = b.length) (h : ∀ k, a.getD k 0#8 = b.getD k 0#8) : a = b := by
  refine List.ext_getElem hlen fun k ha hb => ?_
  rw [← List.getD_eq_getElem a 0#8 ha, h, List.getD_eq_getElem b 0#8 hb]

@[simp] theorem padd_nil_left (b : List Byte) : padd [] b = b :=
  ext_getD_zero (by simp) fun k => by rw [padd_getD, List.getD_nil, BitVec.zero_xor]

@[simp] theorem padd_nil_right (a : List Byte) : padd a [] = a := by rw [padd_comm, padd_nil_left]

theorem padd_cons_cons (a b : Byte) (as bs : List Byte) : padd (a :: as) (b :: bs) = (a ^^^ b) :: padd as bs := by
  refine ext_getD_zero (by simp) fun k => ?_
  cases k with
  | zero => rw [padd_getD]; rfl
  | succ k => simp only [padd_getD, List.getD_cons_succ]

theorem peval_padd (a b : List Byte) (x : Byte) : peval (padd a b) x = peval a x ^^^ peval b x := by
  induction a generalizing b with
  | nil => rw [padd_nil_left, peval_nil, BitVec.zero_xor]
  | cons a as ih =>
    cases b with
    | nil => rw [padd_nil_right, peval_nil, BitVec.xor_zero]
    | cons b bs =>
      rw [padd_cons_cons, peval_cons, ih, gfMul_xor_left, peval_cons, peval_cons]; ac_rfl

/-- Trailing zeros are coefficients of no weight (41_polynomial R148). -/
theorem peval_append_replicate_zero (c : List Byte) (n : Nat) (x : Byte) :
    peval (c ++ List.replicate n 0#8) x = peval c x := by
  induction c with
  | nil =>
    induction n with
    | zero => rfl
    | succ n ih =>
      rw [List.nil_append] at ih ⊢
      rw [List.replicate_succ, peval_cons, ih, peval_nil, gfMul_zero_left, BitVec.xor_zero]
  | cons c cs ih => rw [List.cons_append, peval_cons, ih, peval_cons]

/-! ### Products, evaluated -/

/-- Padding on the left multiplies by a power of x. -/
theorem peval_replicate_zero_append (j : Nat) (a : List Byte) (x : Byte) :
    peval (List.replicate j 0#8 ++ a) x = gfMul (peval a x) (fieldPow x j) := by
  induction j with
  | zero => exact (gfMul_one_right _).symm
  | succ j ih => rw [List.replicate_succ, List.cons_append, peval_cons, ih, BitVec.zero_xor, gfMul_assoc, fieldPow]

theorem peval_map_gfMul (c : Byte) (a : List Byte) (x : Byte) : peval (a.map (gfMul c)) x = gfMul c (peval a x) := by
  induction a with
  | nil => exact (gfMul_zero_right c).symm
  | cons a as ih => rw [List.map_cons, peval_cons, ih, peval_cons, xorLinear_gfMul_right, gfMul_assoc]

theorem peval_pmulTerm (a : List Byte) (j : Nat) (c x : Byte) :
    peval (pmulTerm a j c) x = gfMul (gfMul c (peval a x)) (fieldPow x j) := by
  rw [pmulTerm, peval_replicate_zero_append, peval_map_gfMul]

/-- From position j on, the loop adds x^j times the product with the rest of the second operand. -/
theorem peval_pmulLoop (a : List Byte) (j : Nat) (b acc : List Byte) (x : Byte) :
    peval (pmulLoop a j b acc) x = peval acc x ^^^ gfMul (gfMul (peval b x) (peval a x)) (fieldPow x j) := by
  induction b generalizing j acc with
  | nil => rw [pmulLoop, peval_nil, gfMul_zero_left, gfMul_zero_left, BitVec.xor_zero]
  | cons c b ih =>
    have hshift : gfMul (gfMul (gfMul (peval b x) x) (peval a x)) (fieldPow x j) =
        gfMul (gfMul (peval b x) (peval a x)) (fieldPow x (j + 1)) := by
      rw [fieldPow, gfMul_right_comm (peval b x), gfMul_assoc _ x, gfMul_comm x]
    rw [pmulLoop, ih, peval_padd, peval_pmulTerm, peval_cons, gfMul_xor_left, gfMul_xor_left, hshift, BitVec.xor_assoc]

theorem pmul_nil_left (b : List Byte) : pmul [] b = [] := rfl

theorem pmul_nil_right (a : List Byte) : pmul a [] = [] := if_pos (.inr rfl)

theorem pmul_of_ne_nil {a b : List Byte} (ha : a ≠ []) (hb : b ≠ []) : pmul a b = pmulLoop a 0 b [] :=
  if_neg (by simp [ha, hb])

/-- Evaluation takes products to products (41_polynomial R148). -/
theorem peval_pmul {a b : List Byte} (ha : a ≠ []) (hb : b ≠ []) (x : Byte) :
    peval (pmul a b) x = gfMul (peval a x) (peval b x) := by
  rw [pmul_of_ne_nil ha hb, peval_pmulLoop, fieldPow, gfMul_one_right, peval_nil, BitVec.zero_xor, gfMul_comm]

/-! ### Products, by coefficients -/

theorem convolution_comm (a b : List Byte) (m : Nat) : convolution a b m = convolution b a m := by
  rw [convolution, fieldSum_range_reflect, convolution]
  refine congrArg fieldSum (List.map_congr_left fun k hk => ?_)
  have hk : k < m + 1 := List.mem_range.1 hk
  rw [gfMul_comm, Nat.add_sub_cancel, Nat.sub_sub_self (by omega)]

theorem convolution_nil_right (a : List Byte) (m : Nat) : convolution a [] m = 0#8 := by
  rw [convolution_comm, convolution]
  exact fieldSum_map_eq_zero _ fun k => gfMul_zero_left _

theorem convolution_cons_zero (a : List Byte) (c : Byte) (b : List Byte) :
    convolution a (c :: b) 0 = gfMul c (a.getD 0 0#8) := by
  rw [gfMul_comm]; exact BitVec.xor_zero

/-- The convolution by the second operand's coefficients, as the engine's loop takes them. -/
theorem convolution_cons_succ (a : List Byte) (c : Byte) (b : List Byte) (m : Nat) :
    convolution a (c :: b) (m + 1) = gfMul c (a.getD (m + 1) 0#8) ^^^ convolution a b m := by
  rw [convolution, fieldSum_range_succ, BitVec.xor_comm, convolution, Nat.sub_self, List.getD_cons_zero, gfMul_comm]
  refine congrArg _ (congrArg fieldSum (List.map_congr_left fun k hk => ?_))
  rw [Nat.succ_sub (Nat.le_of_lt_succ (List.mem_range.1 hk)), List.getD_cons_succ]

theorem pmulTerm_getD_of_lt (a : List Byte) (c : Byte) {j m : Nat} (h : m < j) : (pmulTerm a j c).getD m 0#8 = 0#8 := by
  rw [pmulTerm, List.getD_append _ _ _ _ (by simpa using h)]
  exact List.getD_replicate 0#8 h

theorem pmulTerm_getD_add (a : List Byte) (c : Byte) (j d : Nat) :
    (pmulTerm a j c).getD (j + d) 0#8 = gfMul c (a.getD d 0#8) := by
  rw [pmulTerm, List.getD_append_right _ _ _ _ (by simp), List.length_replicate, Nat.add_sub_cancel_left]
  exact (congrArg _ (gfMul_zero_right c).symm).trans (List.getD_map a 0#8 (gfMul c))

/-- From position j on, the loop leaves the coefficients below j. -/
theorem pmulLoop_getD_of_lt (a b acc : List Byte) {j m : Nat} (h : m < j) :
    (pmulLoop a j b acc).getD m 0#8 = acc.getD m 0#8 := by
  induction b generalizing j acc with
  | nil => rfl
  | cons c b ih => rw [pmulLoop, ih _ (Nat.lt_succ_of_lt h), padd_getD, pmulTerm_getD_of_lt a c h, BitVec.xor_zero]

/-- From position j on, the loop adds the convolution with the rest of the second operand (41_polynomial R142). -/
theorem pmulLoop_getD_add (a b acc : List Byte) (j d : Nat) :
    (pmulLoop a j b acc).getD (j + d) 0#8 = acc.getD (j + d) 0#8 ^^^ convolution a b d := by
  induction b generalizing j d acc with
  | nil => rw [pmulLoop, convolution_nil_right, BitVec.xor_zero]
  | cons c b ih =>
    cases d with
    | zero =>
      rw [pmulLoop, pmulLoop_getD_of_lt a b _ (Nat.lt_succ_self (j + 0)), padd_getD, pmulTerm_getD_add,
        convolution_cons_zero]
    | succ d =>
      have hd : j + (d + 1) = j + 1 + d := by omega
      rw [pmulLoop, hd, ih, padd_getD, ← hd, pmulTerm_getD_add, convolution_cons_succ, BitVec.xor_assoc]

/-- "result[m] = ⊕ over j + k = m of (a[k] ⊗ b[j])" (41_polynomial R142); an empty operand makes every term 0. -/
theorem pmul_getD (a b : List Byte) (m : Nat) : (pmul a b).getD m 0#8 = convolution a b m := by
  by_cases ha : a = []
  · rw [ha, pmul_nil_left, convolution_comm, convolution_nil_right, List.getD_nil]
  by_cases hb : b = []
  · rw [hb, pmul_nil_right, convolution_nil_right, List.getD_nil]
  have h := pmulLoop_getD_add a b [] 0 m
  rwa [Nat.zero_add, List.getD_nil, BitVec.zero_xor, ← pmul_of_ne_nil ha hb] at h

theorem pmul_comm (a b : List Byte) : pmul a b = pmul b a := by
  refine ext_getD_zero ?_ fun m => ?_
  · simp only [pmul_length, or_comm, Nat.add_comm]
  · rw [pmul_getD, pmul_getD, convolution_comm]

/-! ### The commands -/

theorem polyA_getD (s : State) (k : Nat) :
    s.polyA.getD k 0#8 = if k < s.paLen.toNat then s.byteAt (Buf.pa k).offset else 0#8 := bytesFrom_getD s _ _ k

theorem polyB_getD (s : State) (k : Nat) :
    s.polyB.getD k 0#8 = if k < s.pbLen.toNat then s.byteAt (Buf.pb k).offset else 0#8 := bytesFrom_getD s _ _ k

@[simp] theorem polyA_length (s : State) : s.polyA.length = s.paLen.toNat := bytesFrom_length s _ _

@[simp] theorem polyB_length (s : State) : s.polyB.length = s.pbLen.toNat := bytesFrom_length s _ _

theorem polyLensOk_iff (s : State) :
    s.polyLensOk = true ↔ s.paLen.toNat ≤ s.cfg.pcap ∧ s.pbLen.toNat ≤ s.cfg.pcap := by
  rw [State.polyLensOk, Bool.and_eq_true, decide_eq_true_eq, decide_eq_true_eq]

/-- A command that leaves the polynomial r in PR writes PR_LEN and PR[0..len(r)-1], and no other field or buffer word. -/
theorem complete_setPr {s t : State} {r : List Byte} (hr : r.length < 2 ^ 16) (ht : t = complete (s.setPr r)) :
    t = { s with mem := t.mem, prLen := t.prLen, err := .ok, done := true, busy := false, held := [] } ∧
      t.prLen.toNat = r.length ∧
      (∀ k, k < t.prLen.toNat → t.byteAt (Buf.pr k).offset = r.getD k 0#8) ∧
      (∀ off, (∀ k, k < t.prLen.toNat → off ≠ (Buf.pr k).offset) → t.byteAt off = s.byteAt off) := by
  subst ht
  have hlen : (complete (s.setPr r)).prLen.toNat = r.length := toNat_ofNat_of_lt hr
  have hmem : (complete (s.setPr r)).mem = Memory.writeFrom s.mem 0x038000 r := rfl
  rw [hlen]
  exact ⟨rfl, rfl, fun k hk => byteAt_of_writeFrom_self hmem rfl hk,
    fun off hoff => byteAt_of_writeFrom_other hmem rfl hoff⟩

theorem exec_polyAdd {s : State} (ha : s.paLen.toNat ≤ s.cfg.pcap) (hb : s.pbLen.toNat ≤ s.cfg.pcap) :
    exec .polyAdd s = .next (complete (s.setPr (padd s.polyA s.polyB))) :=
  if_neg (not_not_intro ((polyLensOk_iff s).2 ⟨ha, hb⟩))

theorem exec_polyMul {s : State} (ha : s.paLen.toNat ≤ s.cfg.pcap) (hb : s.pbLen.toNat ≤ s.cfg.pcap)
    (hab : s.paLen = 0#16 ∨ s.pbLen = 0#16 ∨ s.paLen.toNat + s.pbLen.toNat - 1 ≤ s.cfg.pcap) :
    exec .polyMul s = .next (complete (s.setPr (pmul s.polyA s.polyB))) := by
  refine (if_neg (not_not_intro ((polyLensOk_iff s).2 ⟨ha, hb⟩))).trans (if_neg ?_)
  rcases hab with h | h | h
  · simp [h]
  · simp [h]
  · omega

theorem exec_polyAdd_range {s : State} (h : s.cfg.pcap < s.paLen.toNat ∨ s.cfg.pcap < s.pbLen.toNat) :
    exec .polyAdd s = .next (raise .operandRange s) :=
  if_pos (mt (polyLensOk_iff s).1 (by omega))

theorem exec_polyMul_range {s : State}
    (h : s.cfg.pcap < s.paLen.toNat ∨ s.cfg.pcap < s.pbLen.toNat ∨
      (s.paLen ≠ 0#16 ∧ s.pbLen ≠ 0#16 ∧ s.cfg.pcap < s.paLen.toNat + s.pbLen.toNat - 1)) :
    exec .polyMul s = .next (raise .operandRange s) := by
  change execPolyMul s = _
  rw [execPolyMul]
  split_ifs with hlens hprod
  · rfl
  · rw [polyLensOk_iff] at hlens
    bv_omega
  · rfl

/-- Settles O26: the coefficients of the sum, read back from PR. -/
theorem polyAddAddsLaneByLane : Obligations.PolyAddAddsLaneByLane := by
  refine fun s => ⟨fun ha hb => ?_, exec_polyAdd_range⟩
  have hr : (padd s.polyA s.polyB).length = max s.paLen.toNat s.pbLen.toNat := by simp
  obtain ⟨t, ht⟩ : ∃ t, t = complete (s.setPr (padd s.polyA s.polyB)) := ⟨_, rfl⟩
  obtain ⟨hframe, hlen, hpr, hother⟩ := complete_setPr (by omega) ht
  refine ⟨t, by rw [exec_polyAdd ha hb, ht], hframe, hlen.trans hr, fun k hk => ?_, hother⟩
  rw [hpr k hk, padd_getD, polyA_getD, polyB_getD]

/-- Settles O27: the coefficients of the product, read back from PR. -/
theorem polyMulConvolves : Obligations.PolyMulConvolves := by
  refine fun s hc => ⟨fun ha hb hab => ?_, exec_polyMul_range⟩
  have hr : (pmul s.polyA s.polyB).length =
      if s.paLen = 0#16 ∨ s.pbLen = 0#16 then 0 else s.paLen.toNat + s.pbLen.toNat - 1 := by
    simp only [pmul_length, polyA_length, polyB_length, BitVec.toNat_eq]; rfl
  have hcap : (pmul s.polyA s.polyB).length ≤ s.cfg.pcap := by
    rw [hr]
    split_ifs with h0
    · exact Nat.zero_le _
    · exact (or_assoc.2 hab).resolve_left h0
  obtain ⟨t, ht⟩ : ∃ t, t = complete (s.setPr (pmul s.polyA s.polyB)) := ⟨_, rfl⟩
  obtain ⟨hframe, hlen, hpr, hother⟩ := complete_setPr (by omega) ht
  refine ⟨t, by rw [exec_polyMul ha hb hab, ht], hframe, hlen.trans hr, fun m hm => ?_, hother⟩
  rw [hpr m hm, pmul_getD]

/-- Settles O28: the running power computes the power sum. -/
theorem polyEvalSumsThePowers : Obligations.PolyEvalSumsThePowers := by
  refine fun x s => ⟨fun ha => ?_, fun ha => if_pos ha⟩
  rw [← peval_eq_powerSum]
  exact if_neg (Nat.not_lt.2 ha)

/-- Settles O29: the running power is Horner's. -/
theorem hornerEqualsPeval : Obligations.HornerEqualsPeval := horner_eq_peval

/-- Settles O30: each law by its own induction. -/
theorem polynomialLawsHold : Obligations.PolynomialLawsHold :=
  ⟨padd_comm, pmul_comm, peval_padd, fun _ _ x ha hb => peval_pmul ha hb x, peval_append_replicate_zero⟩

end Sys2Proof.Machine

/-! # Proofs: the splitter (42_splitter)

SPLIT's commit, read back entry by entry, is the secret and the bytes drawn. GET_SHARE leaves in OUT the list mkshare, and
IS_VALID compares a slot with it; both claims read that list off by its entries. -/

namespace Sys2Proof.Machine

/-! ### The random bytes of a SPLIT -/

/-- The bytes a SPLIT needs lie in order in those held and then those offered (42_splitter R162). -/
theorem takeDraws_held_getElem? (s : State) {need i : Nat} (hi : i < need) :
    (s.takeDraws need).held[i]? = (s.held ++ s.offers)[i]? := by
  rw [takeDraws_held, List.getElem?_append, List.getElem?_append]
  split_ifs with hheld
  · rfl
  · exact List.getElem?_take_of_lt (by omega)

/-- With too few bytes the core takes everything offered. -/
theorem takeDraws_of_short {s : State} {need : Nat} (h : s.held.length + s.offers.length < need) :
    s.takeDraws need = { s with held := s.held ++ s.offers, offers := [] } := by
  have hall : s.offers.length ≤ need - s.held.length := by omega
  rw [State.takeDraws, List.take_of_length_le hall, List.drop_eq_nil_of_le hall]

/-- The byte of COEF[p][k] is among the n (T - 1) that SPLIT takes. -/
theorem drawIndex_lt {n T p k : Nat} (hp : p < n) (hk : 1 ≤ k) (hkT : k < T) : p * (T - 1) + (k - 1) < n * (T - 1) :=
  calc p * (T - 1) + (k - 1) < p * (T - 1) + (T - 1) := by omega
    _ = (p + 1) * (T - 1) := (Nat.succ_mul p (T - 1)).symm
    _ ≤ n * (T - 1) := Nat.mul_le_mul_right _ hp

/-! ### The material that SPLIT commits -/

theorem secretBytes_getD {s : State} {p : Nat} (hp : p < s.secretLen.toNat) :
    s.secretBytes.getD p 0#8 = s.byteAt (Buf.secret p).offset :=
  (bytesFrom_getD s _ _ p).trans (if_pos hp)

@[simp] theorem finish_coefAt (e : ErrCode) (s : State) (p k : Nat) : (finish e s).coefAt p k = s.coefAt p k := rfl

/-- The live entries of the material, in the form that the list of its cells gives. -/
theorem setMaterial_coefAt {s : State} {T : Byte} {p k : Nat} (hp : p < s.secretLen.toNat) (hk : k < T.toNat) :
    (s.setMaterial T).coefAt p k =
      if k = 0 then s.byteAt (Buf.secret p).offset else s.held.getD (p * (T.toNat - 1) + (k - 1)) 0#8 := by
  have hlen : p - 0 < s.secretBytes.length := hp.trans_eq (bytesFrom_length s _ _).symm
  rw [State.coefAt, setMaterial_coef, find_materialCells (Nat.le_of_lt_succ T.isLt) _ _ p.zero_le hlen hk, Nat.sub_zero,
    secretBytes_getD hp, Option.getD_some]

theorem setMaterial_coefAt_zero {s : State} {T : Byte} (hT : T ≠ 0#8) {p : Nat} (hp : p < s.secretLen.toNat) :
    (s.setMaterial T).coefAt p 0 = s.byteAt (Buf.secret p).offset :=
  (setMaterial_coefAt hp (BitVec.toNat_pos_of_ne_zero hT)).trans (if_pos rfl)

/-- The upper coefficients are drawn bytes, if the state holds all that SPLIT needs. -/
theorem setMaterial_coefAt_pos {s : State} {T : Byte} (hheld : s.splitNeed T ≤ s.held.length) {p k : Nat}
    (hp : p < s.secretLen.toNat) (hk : 1 ≤ k) (hkT : k < T.toNat) :
    s.held[p * (T.toNat - 1) + (k - 1)]? = some ((s.setMaterial T).coefAt p k) := by
  have hi : p * (T.toNat - 1) + (k - 1) < s.held.length := (drawIndex_lt hp hk hkT).trans_le hheld
  rw [setMaterial_coefAt hp hkT, if_neg (by omega), List.getD_eq_getElem _ _ hi, List.getElem?_eq_getElem hi]

/-! ### SPLIT -/

theorem exec_split_of_enough {T : Byte} {s : State} (hT : T ≠ 0#8) (hn : s.secretLen.toNat ≤ s.cfg.nmax)
    (h : s.splitNeed T ≤ s.held.length + s.offers.length) :
    exec (.split T) s = .next (complete ((s.takeDraws (s.splitNeed T)).setMaterial T)) :=
  (execSplit_eq hT hn).trans (if_neg (Nat.not_lt.2 h))

theorem exec_split_of_short {T : Byte} {s : State} (hT : T ≠ 0#8) (hn : s.secretLen.toNat ≤ s.cfg.nmax)
    (h : s.held.length + s.offers.length < s.splitNeed T) :
    exec (.split T) s = .next { s with held := s.held ++ s.offers, offers := [] } := by
  rw [← takeDraws_of_short h]
  exact (execSplit_eq hT hn).trans (if_pos h)

/-- Settles O31: the commit's entries are the secret and the bytes taken, which are the first of those held and offered. -/
theorem splitBuildsTheMaterial : Obligations.SplitBuildsTheMaterial := by
  intro T s hT hn henough
  have hheld : s.splitNeed T ≤ (s.takeDraws (s.splitNeed T)).held.length :=
    Nat.not_lt.1 (mt (takeDraws_held_length_lt s _).1 (Nat.not_lt.2 henough))
  refine ⟨_, exec_split_of_enough hT hn henough, rfl, fun p hp => ?_, fun p k hp hk hkT => ?_⟩
  · exact setMaterial_coefAt_zero (s := s.takeDraws _) hT hp
  · rw [← takeDraws_held_getElem? s (drawIndex_lt hp hk hkT)]
    exact setMaterial_coefAt_pos (s := s.takeDraws _) hheld hp hk hkT

/-- Settles O32: the two checks in their order, and then the wait. -/
theorem splitFailsOrWaits : Obligations.SplitFailsOrWaits := fun _ _ =>
  ⟨fun hT => if_pos hT, fun hT hn => (if_neg hT).trans (if_pos hn), exec_split_of_short⟩

/-! ### The share of an id -/

/-- Byte p + 1 of a share is the value of the material's polynomial p at the id (42_splitter R160, R163). -/
theorem mkshare_getD_succ (s : State) (id : Byte) {p : Nat} (hp : p < s.matN.toNat) :
    (s.mkshare id).getD (p + 1) 0#8 = powerSum (s.materialPoly p) id := by
  simp [State.mkshare, hp, peval_eq_powerSum]

/-- A share depends on the live material only. -/
theorem mkshare_congr {s s' : State} (hN : s'.matN = s.matN) (hT : s'.matT = s.matT)
    (hC : ∀ p k, p < s.matN.toNat → k < s.matT.toNat → s'.coefAt p k = s.coefAt p k) (id : Byte) :
    s'.mkshare id = s.mkshare id := by
  have hpoly : ∀ p ∈ List.range s.matN.toNat, s'.materialPoly p = s.materialPoly p := fun p hp => by
    rw [State.materialPoly, hT]
    exact List.map_congr_left fun k hk => hC p k (List.mem_range.1 hp) (List.mem_range.1 hk)
  rw [State.mkshare, hN, State.mkshare]
  exact congrArg (id :: ·) (List.map_congr_left fun p hp => congrArg (peval · id) (hpoly p hp))

/-! ### GET_SHARE -/

/-- What a command that leaves the list l in OUT stores there. -/
theorem byteAt_out_complete_setOut (s : State) {l : List Byte} {b : Nat} (hb : b < l.length) :
    (complete (s.setOut l)).byteAt (Buf.out b).offset = l.getD b 0#8 :=
  byteAt_of_writeFrom_self (t := complete (s.setOut l)) (s := s) rfl rfl hb

/-- Such a command leaves every other buffer word. -/
theorem byteAt_other_complete_setOut (s : State) {l : List Byte} {off : Nat}
    (hoff : ∀ b, b < l.length → off ≠ (Buf.out b).offset) : (complete (s.setOut l)).byteAt off = s.byteAt off :=
  byteAt_of_writeFrom_other (t := complete (s.setOut l)) rfl rfl hoff

theorem outLen_complete_setOut (s : State) {l : List Byte} (hl : l.length < 2 ^ 16) :
    (complete (s.setOut l)).outLen.toNat = l.length := toNat_ofNat_of_lt hl

theorem exec_getShare {id : Byte} {s : State} (hid : id ≠ 0#8) (hm : s.matValid = true) :
    exec (.getShare id) s = .next (complete (s.setOut (s.mkshare id))) :=
  (if_neg hid).trans (if_neg (by simp [hm]))

/-- Settles O33: the share's bytes, read back from OUT. -/
theorem getShareWritesTheShare : Obligations.GetShareWritesTheShare := by
  refine fun id s => ⟨fun hid hm hN => ?_, fun hid => if_pos hid, fun hid hm => (if_neg hid).trans (if_pos hm)⟩
  have hlen : (s.mkshare id).length = s.matN.toNat + 1 := mkshare_length s id
  refine ⟨_, exec_getShare hid hm, rfl, (outLen_complete_setOut s (by omega)).trans hlen,
    byteAt_out_complete_setOut s (by omega), fun p hp => ?_, fun off hoff => ?_⟩
  · exact (byteAt_out_complete_setOut s (by omega)).trans (mkshare_getD_succ s id hp)
  · exact byteAt_other_complete_setOut s fun b hb => hoff b (by omega)

/-- Settles O34: both commands leave the same list in OUT. -/
theorem getShareIsDeterministic : Obligations.GetShareIsDeterministic := by
  refine ⟨fun id s s' hm hm' hN hT hC hid => ?_, fun s => ?_⟩
  · refine ⟨_, _, exec_getShare hid hm, exec_getShare hid hm', rfl, rfl, ?_⟩
    rw [mkshare_congr hN hT hC]
    refine ⟨rfl, fun b hb => ?_⟩
    have hlen : b < (s.mkshare id).length := (Nat.lt_succ_of_le hb).trans_eq (mkshare_length s id).symm
    rw [byteAt_out_complete_setOut s' hlen, byteAt_out_complete_setOut s hlen]
  · obtain ⟨-, hzero, -⟩ := getShareWritesTheShare 0#8 s
    exact ⟨_, hzero rfl, rfl⟩

/-! ### Threshold 1 -/

/-- A constant polynomial has its constant as every value. -/
theorem powerSum_singleton (c x : Byte) : powerSum [c] x = c := by
  rw [← peval_eq_powerSum, peval_cons, peval_nil, gfMul_zero_left, BitVec.xor_zero]

/-- Settles O35: with T = 1 nothing is drawn and every polynomial of the material is its secret byte. -/
theorem thresholdOneSharesTheSecret : Obligations.ThresholdOneSharesTheSecret := by
  rintro s ⟨⟨-, hnmax⟩, -⟩ hn
  obtain ⟨t, hsplit, ht, hsecret, -⟩ := splitBuildsTheMaterial 1#8 s (by decide) hn (Nat.zero_le _)
  have hvalid : t.matValid = true := congrArg State.matValid ht
  have hmatN : t.matN = s.secretLen := congrArg State.matN ht
  have hmatT : t.matT = 1#8 := congrArg State.matT ht
  have hoffers : t.offers = s.offers.drop (0 - s.held.length) := congrArg State.offers ht
  refine ⟨t, hsplit, congrArg State.err ht, hvalid, by rw [hoffers, Nat.zero_sub, List.drop_zero], fun id hid => ?_⟩
  obtain ⟨u, hget, hu, hlen, hid0, hbyte, -⟩ :=
    (getShareWritesTheShare id t).1 hid hvalid (by rw [hmatN]; omega)
  rw [hmatN] at hlen hbyte
  refine ⟨u, hget, congrArg State.err hu, hlen, hid0, fun p hp => ?_⟩
  rw [hbyte p hp, hmatT, ← hsecret p hp]
  exact powerSum_singleton _ id

/-! ### IS_VALID -/

/-- A slot's bytes by their first and the payload. -/
theorem shareBytes_succ (s : State) (i n : Nat) :
    s.shareBytes i (n + 1) = s.shareByte i 0 :: (List.range n).map fun p => s.shareByte i (p + 1) := by
  rw [State.shareBytes, State.bytesFrom, List.range_succ_eq_map, List.map_cons, List.map_map]
  rfl

/-- What IS_VALID tests (42_splitter R165): length, id and payload of the slot. -/
theorem shareMatches_iff (s : State) (i n : Nat) :
    s.shareMatches i n = true ↔ n = s.matN.toNat + 1 ∧ s.shareByte i 0 ≠ 0#8 ∧
      ∀ p, p < s.matN.toNat → s.shareByte i (p + 1) = powerSum (s.materialPoly p) (s.shareByte i 0) := by
  have hbytes : s.shareBytes i (s.matN.toNat + 1) = s.mkshare (s.shareByte i 0) ↔
      ∀ p, p < s.matN.toNat → s.shareByte i (p + 1) = powerSum (s.materialPoly p) (s.shareByte i 0) := by
    simp [shareBytes_succ, State.mkshare, peval_eq_powerSum]
  simp only [State.shareMatches, Bool.and_eq_true, decide_eq_true_eq]
  constructor
  · rintro ⟨⟨⟨-, hid⟩, rfl⟩, hshare⟩
    exact ⟨rfl, hid, hbytes.1 hshare⟩
  · rintro ⟨rfl, hid, hpayload⟩
    exact ⟨⟨⟨Nat.le_add_left 1 _, hid⟩, rfl⟩, hbytes.2 hpayload⟩

/-- IS_VALID once its range checks pass. -/
theorem exec_isValid {slot : Byte} {s : State} (hslot : slot.toNat < s.cfg.kmax)
    (hlen : (s.slenAt slot.toNat).toNat ≤ s.cfg.nmax + 1) :
    exec (.isValid slot) s =
      if s.matValid = false then .next (raise .noMaterial s)
      else .next (complete (s.setResult
        (if s.shareMatches slot.toNat (s.slenAt slot.toNat).toNat then 0x01#8 else 0x00#8))) :=
  (if_neg (Nat.not_le.2 hslot)).trans (if_neg (Nat.not_lt.2 hlen))

/-- Settles O36: RESULT by the test's two outcomes, and the three checks in their order. -/
theorem isValidComparesTheShare : Obligations.IsValidComparesTheShare := by
  refine fun slot s => ⟨fun hslot hlen hm => ?_, fun hslot => if_pos hslot,
    fun hslot hlen => (if_neg (Nat.not_le.2 hslot)).trans (if_pos hlen),
    fun hslot hlen hm => (exec_isValid hslot hlen).trans (if_pos hm)⟩
  rw [exec_isValid hslot hlen, if_neg (by simp [hm])]
  refine ⟨fun hshare => ?_, fun hshare => ?_⟩
  · rw [if_pos ((shareMatches_iff s _ _).2 hshare)]; rfl
  · rw [if_neg (mt (shareMatches_iff s _ _).1 hshare)]; rfl

end Sys2Proof.Machine

/-! # Proofs: the recoverer (43_recoverer)

The basis polynomial of a point is a product over the other x-coordinates: 1 at the point, 0 at the others. So the Lagrange core
interpolates whenever no two x-coordinates agree. Evaluation at k distinct bytes then reaches every list of k values, hence is
one to one: the interpolation is the only polynomial of k coefficients through the points (R182). The order of the slots and the
round trip of SPLIT and RECOVER follow from that. -/

namespace Sys2Proof.Machine

/-! ### Lists by position -/

/-- No entry of the list stands in it a second time. -/
theorem nodup_iff_getElem?_notMem_eraseIdx {α : Type} {l : List α} :
    l.Nodup ↔ ∀ n x, l[n]? = some x → x ∉ l.eraseIdx n := by
  simp only [List.mem_eraseIdx_iff_getElem?, not_exists, not_and]
  constructor
  · intro h n x hx m hmn hm
    obtain ⟨hlt, -⟩ := List.getElem?_eq_some_iff.1 hm
    exact hmn ((List.getElem?_inj hlt h).1 (hm.trans hx.symm))
  · refine fun h => List.nodup_iff_getElem?_ne_getElem?.2 fun i j hij hj heq => ?_
    have hx : l[j]? = some l[j] := List.getElem?_eq_getElem hj
    exact h j l[j] hx i hij.ne (heq.trans hx)

/-- A property holds somewhere in a nonempty list exactly if of its head or somewhere in its tail. -/
theorem exists_getElem?_cons {α : Type} {a : α} {l : List α} {P : Nat → α → Prop} :
    (∃ n x, (a :: l)[n]? = some x ∧ P n x) ↔ P 0 a ∨ ∃ n x, l[n]? = some x ∧ P (n + 1) x := by
  constructor
  · rintro ⟨_ | n, x, hx, hP⟩
    · rw [List.getElem?_cons_zero, Option.some.injEq] at hx
      exact .inl (hx ▸ hP)
    · exact .inr ⟨n, x, hx, hP⟩
  · rintro (hP | ⟨n, x, hx, hP⟩)
    · exact ⟨0, a, rfl, hP⟩
    · exact ⟨n + 1, x, hx, hP⟩

/-! ### Basis polynomials -/

/-- Evaluation takes products to products, the empty polynomial being 0 everywhere (41_polynomial R148). -/
theorem peval_pmul_eq (a b : List Byte) (x : Byte) : peval (pmul a b) x = gfMul (peval a x) (peval b x) := by
  by_cases ha : a = []
  · rw [ha, pmul_nil_left, peval_nil, gfMul_zero_left]
  by_cases hb : b = []
  · rw [hb, pmul_nil_right, peval_nil, gfMul_zero_right]
  exact peval_pmul ha hb x

/-- The factor (x - x_j)/(x_i - x_j) of a basis polynomial, for x_i and x_j apart (43_recoverer R180). -/
def basisFactor (xi xj : Byte) : List Byte := [gfMul xj (gfInv (xi ^^^ xj)), gfInv (xi ^^^ xj)]

/-- The basis polynomial of x_i over a list of other x-coordinates, as the machine's loop computes it. -/
def basisOver (xi : Byte) : List Byte → List Byte → Option (List Byte)
  | [], acc => some acc
  | xj :: xs, acc => if xj = xi then none else basisOver xi xs (pmul acc (basisFactor xi xj))

theorem peval_basisFactor (xi xj x : Byte) : peval (basisFactor xi xj) x = gfMul (xj ^^^ x) (gfInv (xi ^^^ xj)) := by
  rw [basisFactor, peval_cons, peval_cons, peval_nil, gfMul_zero_left, BitVec.xor_zero, gfMul_comm _ x, gfMul_xor_left]

theorem peval_basisFactor_self {xi xj : Byte} (h : xj ≠ xi) : peval (basisFactor xi xj) xi = 1#8 := by
  have hd : xi ^^^ xj ≠ 0#8 := fun h0 => h (BitVec.xor_eq_zero_iff.1 h0).symm
  rw [peval_basisFactor, BitVec.xor_comm, gfMul_comm, gfInv_gfMul hd]

theorem peval_basisFactor_other (xi xj : Byte) : peval (basisFactor xi xj) xj = 0#8 := by
  rw [peval_basisFactor, BitVec.xor_self, gfMul_zero_left]

/-- One turn of the machine's inner loop: point i is skipped, x_i itself is a division by zero, any other point a factor. -/
theorem basisLoop_cons (xi : Byte) (i j : Nat) (q : Byte × Byte) (pts : List (Byte × Byte)) (acc : List Byte) :
    basisLoop xi i j (q :: pts) acc =
      if j = i then basisLoop xi i (j + 1) pts acc
      else if q.1 = xi then none else basisLoop xi i (j + 1) pts (pmul acc (basisFactor xi q.1)) := by
  obtain ⟨xj, yj⟩ := q
  rw [basisLoop]
  refine if_congr Iff.rfl rfl ?_
  by_cases h : xj = xi
  · have hdiv : gfDiv 0x01#8 (gfSub xi xj) = none := gfDiv_eq_none.2 ⟨by decide, by rw [h]; exact BitVec.xor_self⟩
    rw [hdiv, if_pos h]
    cases gfDiv xj (gfSub xi xj) <;> rfl
  · have hd : gfSub xi xj ≠ 0#8 := fun h0 => h (BitVec.xor_eq_zero_iff.1 h0).symm
    rw [gfDiv_eq_gfMul_gfInv xj hd, gfDiv_eq_gfMul_gfInv 1#8 hd, gfMul_one_left, if_neg h]
    rfl

/-- Past point i the loop skips nothing. -/
theorem basisLoop_of_lt (xi : Byte) {i j : Nat} (h : i < j) (pts : List (Byte × Byte)) (acc : List Byte) :
    basisLoop xi i j pts acc = basisOver xi (pts.map Prod.fst) acc := by
  induction pts generalizing j acc with
  | nil => rfl
  | cons q pts ih => rw [basisLoop_cons, if_neg h.ne', ih (Nat.lt_succ_of_lt h), List.map_cons, basisOver]

/-- The machine's inner loop runs over all x-coordinates but that of point i. -/
theorem basisLoop_add (xi : Byte) (m j : Nat) (pts : List (Byte × Byte)) (acc : List Byte) :
    basisLoop xi (j + m) j pts acc = basisOver xi ((pts.map Prod.fst).eraseIdx m) acc := by
  induction pts generalizing m j acc with
  | nil => rfl
  | cons q pts ih =>
    cases m with
    | zero => rw [Nat.add_zero, basisLoop_cons, if_pos rfl, basisLoop_of_lt xi (Nat.lt_succ_self j)]; rfl
    | succ m =>
      have hj : j + (m + 1) = j + 1 + m := by omega
      rw [basisLoop_cons, if_neg (by omega), hj, ih, List.map_cons, List.eraseIdx_cons_succ, basisOver]

/-- The basis polynomial of point i, from all the points (43_recoverer R180). -/
theorem basisLoop_zero (xi : Byte) (i : Nat) (pts : List (Byte × Byte)) (acc : List Byte) :
    basisLoop xi i 0 pts acc = basisOver xi ((pts.map Prod.fst).eraseIdx i) acc := by
  rw [← basisLoop_add xi i 0, Nat.zero_add]

/-- "A zero denominator" (43_recoverer R181). -/
theorem basisOver_eq_none_iff (xi : Byte) (xs acc : List Byte) : basisOver xi xs acc = none ↔ xi ∈ xs := by
  induction xs generalizing acc with
  | nil => simp [basisOver]
  | cons xj xs ih => rw [basisOver, List.mem_cons, ite_eq_left_iff, ih, eq_comm, or_iff_not_imp_left]

/-- A basis polynomial is 1 at its own x-coordinate: the loop keeps the value there. -/
theorem peval_basisOver_self {xi : Byte} {xs acc l : List Byte} (h : basisOver xi xs acc = some l) :
    peval l xi = peval acc xi := by
  induction xs generalizing acc with
  | nil => cases h; rfl
  | cons xj xs ih =>
    rw [basisOver, Option.ite_none_left_eq_some] at h
    obtain ⟨hj, hl⟩ := h
    rw [ih hl, peval_pmul_eq, peval_basisFactor_self hj, gfMul_one_right]

/-- A basis polynomial is 0 at the other x-coordinates: a zero of the product stays one, and each factor brings its own. -/
theorem peval_basisOver_other {xi x : Byte} {xs acc l : List Byte} (h : basisOver xi xs acc = some l)
    (hx : peval acc x = 0#8 ∨ x ∈ xs) : peval l x = 0#8 := by
  induction xs generalizing acc with
  | nil => cases h; simpa using hx
  | cons xj xs ih =>
    rw [basisOver, Option.ite_none_left_eq_some] at h
    obtain ⟨hj, hl⟩ := h
    refine ih hl ?_
    rw [peval_pmul_eq]
    rcases hx with hx | hx
    · exact .inl (by rw [hx, gfMul_zero_left])
    · refine (List.mem_cons.1 hx).imp (fun hx => ?_) id
      rw [hx, peval_basisFactor_other, gfMul_zero_right]

/-! ### The Lagrange core -/

/-- The outer loop meets a zero denominator exactly if a point's x-coordinate is also another's. -/
theorem lagrangeLoop_eq_none_iff (pts : List (Byte × Byte)) (i : Nat) (rest : List (Byte × Byte)) (acc : List Byte) :
    lagrangeLoop pts i rest acc = none ↔
      ∃ n q, rest[n]? = some q ∧ q.1 ∈ (pts.map Prod.fst).eraseIdx (i + n) := by
  induction rest generalizing i acc with
  | nil => simp [lagrangeLoop]
  | cons q rest ih =>
    rw [exists_getElem?_cons, Nat.add_zero, lagrangeLoop, basisLoop_zero, ← basisOver_eq_none_iff _ _ [0x01#8]]
    cases basisOver q.1 ((pts.map Prod.fst).eraseIdx i) [0x01#8] with
    | none => simp
    | some l => simp [ih, Nat.add_assoc, Nat.add_comm 1]

/-- From point i on, the outer loop adds at each of the points left its y-coordinate, and nothing at the points before. -/
theorem peval_lagrangeLoop {pts rest : List (Byte × Byte)} {i : Nat} {acc r : List Byte} (hrest : pts.drop i = rest)
    (h : lagrangeLoop pts i rest acc = some r) {m : Nat} {q : Byte × Byte} (hm : pts[m]? = some q) :
    peval r q.1 = peval acc q.1 ^^^ (if i ≤ m then q.2 else 0#8) := by
  induction rest generalizing i acc with
  | nil =>
    cases h
    obtain ⟨hlt, -⟩ := List.getElem?_eq_some_iff.1 hm
    have hlen := List.drop_eq_nil_iff.1 hrest
    rw [if_neg (by omega), BitVec.xor_zero]
  | cons p rest ih =>
    have hp : pts[i]? = some p := by rw [← Nat.add_zero i, ← List.getElem?_drop, hrest]; rfl
    have hrest' : pts.drop (i + 1) = rest := by rw [← List.drop_drop, hrest]; rfl
    rw [lagrangeLoop, basisLoop_zero] at h
    cases hl : basisOver p.1 ((pts.map Prod.fst).eraseIdx i) [0x01#8] with
    | none => rw [hl] at h; cases h
    | some l =>
      rw [hl] at h
      rw [ih hrest' h, peval_padd, peval_pmul_eq, peval_cons p.2, peval_nil, gfMul_zero_left,
        BitVec.xor_zero, BitVec.xor_assoc]
      congr 1
      by_cases hmi : m = i
      · subst hmi
        obtain rfl : p = q := Option.some.inj (hp.symm.trans hm)
        rw [peval_basisOver_self hl, if_neg (by omega), if_pos le_rfl, BitVec.xor_zero]
        exact gfMul_one_left _
      · have hmem : q.1 ∈ (pts.map Prod.fst).eraseIdx i :=
          List.mem_eraseIdx_iff_getElem?.2 ⟨m, hmi, by rw [List.getElem?_map, hm]; rfl⟩
        rw [peval_basisOver_other hl (.inr hmem), gfMul_zero_left, BitVec.zero_xor]
        exact if_congr (by omega) rfl rfl

/-- lagrange raises DIVISION_BY_ZERO exactly if two points share an x-coordinate (43_recoverer R181). -/
theorem lagrange_eq_none_iff (pts : List (Byte × Byte)) : lagrange pts = none ↔ ¬ (pts.map Prod.fst).Nodup := by
  rw [lagrange, lagrangeLoop_eq_none_iff, nodup_iff_getElem?_notMem_eraseIdx]
  simp

/-- "With all x distinct, every d is nonzero and no ⊘ fails" (43_recoverer R181). -/
theorem exists_lagrange {pts : List (Byte × Byte)} (h : (pts.map Prod.fst).Nodup) : ∃ r, lagrange pts = some r :=
  Option.ne_none_iff_exists'.1 fun hnone => (lagrange_eq_none_iff pts).1 hnone h

/-- The interpolation passes through the points (43_recoverer R182). -/
theorem peval_lagrange {pts : List (Byte × Byte)} {r : List Byte} (h : lagrange pts = some r) :
    ∀ q ∈ pts, peval r q.1 = q.2 := by
  intro q hq
  obtain ⟨m, hm⟩ := List.mem_iff_getElem?.1 hq
  rw [peval_lagrangeLoop List.drop_zero h hm, if_pos m.zero_le, peval_nil, BitVec.zero_xor]

/-- The values of a polynomial of n coefficients at a list of n bytes. -/
def valuesAt {n : Nat} (xs : List.Vector Byte n) (c : List.Vector Byte n) : List.Vector Byte n := xs.map (peval c.toList)

theorem valuesAt_surjective {n : Nat} {xs : List.Vector Byte n} (hxs : xs.toList.Nodup) :
    Function.Surjective (valuesAt xs) := by
  intro ys
  have hfst : (xs.toList.zip ys.toList).map Prod.fst = xs.toList := List.map_fst_zip (by simp)
  obtain ⟨r, hr⟩ := exists_lagrange (hfst.symm ▸ hxs)
  refine ⟨⟨r, by rw [lagrange_length hr]; simp⟩, List.Vector.toList_injective ?_⟩
  calc xs.toList.map (peval r)
      = (xs.toList.zip ys.toList).map (fun q => peval r q.1) := by
        rw [← congrArg (List.map (peval r)) hfst, List.map_map]; rfl
    _ = (xs.toList.zip ys.toList).map Prod.snd := List.map_congr_left (peval_lagrange hr)
    _ = ys.toList := List.map_snd_zip (by simp)

/-- Evaluation at n distinct bytes determines n coefficients: it reaches every list of n values, and there are as many lists of
coefficients. -/
theorem eq_of_peval_eq {xs c d : List Byte} (hxs : xs.Nodup) (hc : c.length = xs.length) (hd : d.length = xs.length)
    (h : ∀ x ∈ xs, peval c x = peval d x) : c = d := by
  have hinj := Finite.injective_iff_surjective.2 (valuesAt_surjective (xs := ⟨xs, rfl⟩) hxs)
  exact congrArg List.Vector.toList (@hinj ⟨c, hc⟩ ⟨d, hd⟩ (List.Vector.toList_injective (List.map_congr_left h)))

/-- The interpolation is the only polynomial of so many coefficients through the points (43_recoverer R182). -/
theorem lagrange_eq_some {pts : List (Byte × Byte)} {c : List Byte} (hpts : (pts.map Prod.fst).Nodup)
    (hlen : c.length = pts.length) (h : ∀ q ∈ pts, peval c q.1 = q.2) : lagrange pts = some c := by
  obtain ⟨r, hr⟩ := exists_lagrange hpts
  rw [hr]
  refine congrArg some (eq_of_peval_eq hpts ?_ ?_ ?_)
  · rw [lagrange_length hr, List.length_map]
  · rw [hlen, List.length_map]
  · intro x hx
    obtain ⟨q, hq, rfl⟩ := List.mem_map.1 hx
    rw [peval_lagrange hr q hq, h q hq]

/-- The interpolation does not depend on the order of the points (43_recoverer R189). -/
theorem lagrange_perm {pts pts' : List (Byte × Byte)} (h : pts'.Perm pts) : lagrange pts' = lagrange pts := by
  have hfst : (pts'.map Prod.fst).Nodup ↔ (pts.map Prod.fst).Nodup := (h.map Prod.fst).nodup_iff
  cases hr : lagrange pts with
  | none => exact (lagrange_eq_none_iff pts').2 (mt hfst.1 ((lagrange_eq_none_iff pts).1 hr))
  | some r =>
    have hpts : (pts.map Prod.fst).Nodup := by
      by_contra hdup
      rw [(lagrange_eq_none_iff pts).2 hdup] at hr
      cases hr
    exact lagrange_eq_some (hfst.2 hpts) ((lagrange_length hr).trans h.length_eq.symm)
      fun q hq => peval_lagrange hr q (h.mem_iff.1 hq)

/-! ### The points in the slots -/

theorem points_map_fst (s : State) (k p : Nat) : (s.points k p).map Prod.fst = s.slotIds k := List.map_map

theorem points_eq_ofFn (s : State) (k p : Nat) :
    s.points k p = List.ofFn fun i : Fin k => (s.shareByte i 0, s.shareByte i p) :=
  (List.map_coe_finRange_eq_range ▸ List.map_map).trans List.ofFn_eq_map.symm

theorem point_mem_points (s : State) {k i : Nat} (hi : i < k) (p : Nat) :
    (s.shareByte i 0, s.shareByte i p) ∈ s.points k p := List.mem_map_of_mem (List.mem_range.2 hi)

/-- The k id bytes are pairwise distinct, slot by slot. -/
theorem slotIds_nodup_iff (s : State) (k : Nat) :
    (s.slotIds k).Nodup ↔ ∀ i j, i < j → j < k → s.shareByte i 0 ≠ s.shareByte j 0 := by
  rw [State.slotIds, List.Nodup, List.pairwise_map, List.pairwise_iff_getElem]
  simp only [List.length_range, List.getElem_range]
  exact ⟨fun h i j hij hj => h i j (hij.trans hj) hj hij, fun h i j _ hj hij => h i j hij hj⟩

theorem not_slotIds_nodup_iff (s : State) (k : Nat) :
    ¬ (s.slotIds k).Nodup ↔ ∃ i j, i < j ∧ j < k ∧ s.shareByte i 0 = s.shareByte j 0 := by
  simp [slotIds_nodup_iff]

/-- The polynomial of length k through the points of position p, for distinct ids (43_recoverer R182). -/
def State.interpolation (s : State) (k p : Nat) : List Byte := (lagrange (s.points k p)).getD []

theorem lagrange_points {s : State} {k : Nat} (h : (s.slotIds k).Nodup) (p : Nat) :
    lagrange (s.points k p) = some (s.interpolation k p) := by
  obtain ⟨r, hr⟩ := exists_lagrange (points_map_fst s k p ▸ h)
  rw [State.interpolation, hr, Option.getD_some]

theorem interpolation_length {s : State} {k : Nat} (h : (s.slotIds k).Nodup) (p : Nat) :
    (s.interpolation k p).length = k := by rw [lagrange_length (lagrange_points h p), points_length]

theorem powerSum_interpolation {s : State} {k i : Nat} (h : (s.slotIds k).Nodup) (hi : i < k) (p : Nat) :
    powerSum (s.interpolation k p) (s.shareByte i 0) = s.shareByte i p := by
  rw [← peval_eq_powerSum]
  exact peval_lagrange (lagrange_points h p) _ (point_mem_points s hi p)

/-- A check of all slots fails at some slot. -/
theorem range_any_iff {k : Nat} {P : Nat → Prop} [DecidablePred P] :
    ((List.range k).any fun i => decide (P i)) = true ↔ ∃ i, i < k ∧ P i := by simp

/-- A check of all slots passes at every slot. -/
theorem not_range_any_iff {k : Nat} {P : Nat → Prop} [DecidablePred P] :
    ¬ ((List.range k).any fun i => decide (P i)) = true ↔ ∀ i, i < k → ¬ P i := by simp

theorem slotTooLong_iff (s : State) (k : Nat) :
    s.slotTooLong k = true ↔ ∃ i, i < k ∧ s.cfg.nmax + 1 < (s.slenAt i).toNat := range_any_iff

theorem not_slotTooLong_iff (s : State) (k : Nat) :
    ¬ s.slotTooLong k = true ↔ ∀ i, i < k → (s.slenAt i).toNat ≤ s.cfg.nmax + 1 := by
  simp only [slotTooLong_iff, not_exists, not_and, Nat.not_lt]

/-! ### LAGRANGE -/

/-- The checks of LAGRANGE p pass, and no two ids are equal (43_recoverer R183). -/
structure State.LagrangeOk (s : State) (p : Half) : Prop where
  count : s.nshares.toNat ≤ s.cfg.kmax
  fits : ∀ i, i < s.nshares.toNat → (s.slenAt i).toNat ≤ s.cfg.nmax + 1
  position : ∀ i, i < s.nshares.toNat → p.toNat < (s.slenAt i).toNat
  distinct : (s.slotIds s.nshares.toNat).Nodup

/-- LAGRANGE p past its range checks. -/
theorem exec_lagrange_inRange {p : Half} {s : State} (hk : s.nshares.toNat ≤ s.cfg.kmax)
    (hfits : ∀ i, i < s.nshares.toNat → (s.slenAt i).toNat ≤ s.cfg.nmax + 1)
    (hpos : ∀ i, i < s.nshares.toNat → p.toNat < (s.slenAt i).toNat) :
    exec (.lagrange p) s =
      match lagrange (s.points s.nshares.toNat p.toNat) with
      | none => .next (raise .divisionByZero s)
      | some r => .next (complete ((s.setPr r).setResult (r.getD 0 0x00#8))) :=
  (if_neg (Nat.not_lt.2 hk)).trans <|
    (if_neg ((not_slotTooLong_iff s _).2 hfits)).trans <|
      if_neg (not_range_any_iff.2 fun i hi => Nat.not_le.2 (hpos i hi))

theorem State.LagrangeOk.exec_eq {p : Half} {s : State} (h : s.LagrangeOk p) :
    exec (.lagrange p) s = .next (complete ((s.setPr (s.interpolation s.nshares.toNat p.toNat)).setResult
      ((s.interpolation s.nshares.toNat p.toNat).getD 0 0x00#8))) := by
  rw [exec_lagrange_inRange h.count h.fits h.position, lagrange_points h.distinct]

/-- Settles O38: the checks in their order; past them the Lagrange core meets the equal ids. -/
theorem lagrangeFailsInOrder : Obligations.LagrangeFailsInOrder := by
  refine fun p s => ⟨fun hk => if_pos hk, ?_, ?_⟩
  · rintro hk ⟨i, hi, hlong | hshort⟩
    · exact (if_neg (Nat.not_lt.2 hk)).trans (if_pos ((slotTooLong_iff s _).2 ⟨i, hi, hlong⟩))
    · refine (if_neg (Nat.not_lt.2 hk)).trans ?_
      split_ifs with hlong hposition
      · rfl
      · rfl
      · exact absurd (range_any_iff.2 ⟨i, hi, hshort⟩) hposition
  · intro hk hlen hdup
    rw [exec_lagrange_inRange hk (fun i hi => (hlen i hi).1) (fun i hi => (hlen i hi).2), (lagrange_eq_none_iff _).2]
    · rfl
    · rwa [points_map_fst, not_slotIds_nodup_iff]

/-- A LAGRANGE that completes with OK has passed its checks. -/
theorem State.LagrangeOk.of_exec {p : Half} {s t : State} (h : exec (.lagrange p) s = .next t) (ht : t.err = .ok) :
    s.LagrangeOk p := by
  obtain ⟨hcount, hrange, hdup⟩ := lagrangeFailsInOrder p s
  have hok : ∀ {e : ErrCode}, e ≠ .ok → exec (.lagrange p) s ≠ .next (finish e s) := by
    rintro e he h'
    rw [h, Host.Outcome.next.injEq] at h'
    exact he (ht ▸ h' ▸ rfl)
  have hk : s.nshares.toNat ≤ s.cfg.kmax := Nat.not_lt.1 fun hk => hok (by decide) (hcount hk)
  have hlen : ∀ i, i < s.nshares.toNat → (s.slenAt i).toNat ≤ s.cfg.nmax + 1 ∧ p.toNat < (s.slenAt i).toNat := by
    intro i hi
    by_contra hbad
    exact hok (by decide) (hrange hk ⟨i, hi, by omega⟩)
  refine ⟨hk, fun i hi => (hlen i hi).1, fun i hi => (hlen i hi).2, ?_⟩
  by_contra hids
  exact hok (by decide) (hdup hk hlen ((not_slotIds_nodup_iff s _).1 hids))

/-- What a successful LAGRANGE leaves. -/
theorem State.LagrangeOk.effect {p : Half} {s : State} (h : s.LagrangeOk p) :
    ∃ t, exec (.lagrange p) s = .next t ∧
      t = { s with
            mem := t.mem, prLen := s.nshares, result := (s.interpolation s.nshares.toNat p.toNat).getD 0 0x00#8
            err := .ok, done := true, busy := false, held := [] } ∧
      (∀ m, m < s.nshares.toNat →
        t.byteAt (Buf.pr m).offset = (s.interpolation s.nshares.toNat p.toNat).getD m 0#8) ∧
      (∀ off, (∀ m, m < s.nshares.toNat → off ≠ (Buf.pr m).offset) → t.byteAt off = s.byteAt off) := by
  obtain ⟨r, hr⟩ : ∃ r, r = s.interpolation s.nshares.toNat p.toNat := ⟨_, rfl⟩
  have hlen : r.length = s.nshares.toNat := hr ▸ interpolation_length h.distinct p.toNat
  obtain ⟨t, ht⟩ : ∃ t, t = complete ((s.setResult (r.getD 0 0x00#8)).setPr r) := ⟨_, rfl⟩
  obtain ⟨hframe, hprLen, hpr, hother⟩ := complete_setPr (by omega) ht
  have hnshares : t.prLen = s.nshares := BitVec.eq_of_toNat_eq (hprLen.trans hlen)
  rw [hnshares] at hframe hpr hother
  rw [← hr]
  exact ⟨t, by rw [h.exec_eq, ← hr, ht]; rfl, hframe, hpr, hother⟩

/-- The bytes PR[0..PR_LEN - 1], given one by one, are the polynomial in PR. -/
theorem polyR_eq {t : State} {r : List Byte} (hlen : t.prLen.toNat = r.length)
    (hpr : ∀ k, k < t.prLen.toNat → t.byteAt (Buf.pr k).offset = r.getD k 0#8) : t.polyR = r := by
  refine ext_getD_zero ((bytesFrom_length t _ _).trans hlen) fun k => (bytesFrom_getD t _ _ k).trans ?_
  split_ifs with hk
  · exact hpr k hk
  · exact (List.getD_eq_default _ _ (by omega)).symm

/-- Settles O37: PR is the interpolation of the points. -/
theorem lagrangeInterpolatesThePoints : Obligations.LagrangeInterpolatesThePoints := by
  intro p s hk hlen hids
  have h : s.LagrangeOk p :=
    ⟨hk, fun i hi => (hlen i hi).1, fun i hi => (hlen i hi).2, (slotIds_nodup_iff s _).2 hids⟩
  have hr := interpolation_length h.distinct p.toNat
  obtain ⟨t, hexec, hframe, hpr, hother⟩ := h.effect
  have hprLen : t.prLen = s.nshares := congrArg State.prLen hframe
  have hresult : t.result = (s.interpolation s.nshares.toNat p.toNat).getD 0 0x00#8 := congrArg State.result hframe
  refine ⟨t, hexec, hresult.symm ▸ hframe, fun i hi => ?_, ?_, hother⟩
  · rw [polyR_eq ((congrArg BitVec.toNat hprLen).trans hr.symm) (hprLen.symm ▸ hpr)]
    exact powerSum_interpolation h.distinct hi p.toNat
  · rw [hresult]
    split_ifs with hpos
    · exact (hpr 0 hpos).symm
    · exact List.getD_eq_default _ _ (by omega)

/-! ### RECOVER -/

/-- The checks of RECOVER T pass (43_recoverer R184). -/
structure State.RecoverOk (s : State) (T : Byte) : Prop where
  count : s.nshares.toNat ≤ s.cfg.kmax
  nonempty : s.nshares.toNat ≠ 0
  threshold : T.toNat ≤ s.nshares.toNat
  fits : ∀ i, i < s.nshares.toNat → (s.slenAt i).toNat ≤ s.cfg.nmax + 1
  payload : ∀ i, i < s.nshares.toNat → s.slenAt i ≠ 0#16
  distinct : (s.slotIds s.nshares.toNat).Nodup
  sameLen : ∀ i, i < s.nshares.toNat → s.slenAt i = s.slenAt 0

/-- The constant terms of the payload positions 1 to n (43_recoverer R184 step 4). -/
def State.constantTerms (s : State) (k n : Nat) : List Byte :=
  (List.range n).map fun p => (s.interpolation k (p + 1)).getD 0 0x00#8

@[simp] theorem constantTerms_length (s : State) (k n : Nat) : (s.constantTerms k n).length = n := by
  simp [State.constantTerms]

theorem constantTerms_getD (s : State) (k : Nat) {n p : Nat} (hp : p < n) :
    (s.constantTerms k n).getD p 0#8 = (s.interpolation k (p + 1)).getD 0 0x00#8 := by
  simp [State.constantTerms, hp]

/-- With distinct ids every payload position has its constant term (43_recoverer R185). -/
theorem recoverBytes_eq {s : State} {k : Nat} (h : (s.slotIds k).Nodup) (n : Nat) :
    s.recoverBytes k n = some (s.constantTerms k n) := by
  induction n with
  | zero => rfl
  | succ n ih =>
    rw [State.recoverBytes, ih, lagrange_points h, State.constantTerms, State.constantTerms, List.range_succ,
      List.map_append]
    rfl

/-- RECOVER T past its checks. -/
theorem State.RecoverOk.exec_eq {T : Byte} {s : State} (h : s.RecoverOk T) :
    exec (.recover T) s =
      .next (complete (s.setOut (s.constantTerms s.nshares.toNat ((s.slenAt 0).toNat - 1)))) := by
  have hchecks : exec (.recover T) s =
      match s.recoverBytes s.nshares.toNat ((s.slenAt 0).toNat - 1) with
      | none => .next (raise .divisionByZero s)
      | some sec => .next (complete (s.setOut sec)) :=
    (if_neg (Nat.not_lt.2 h.count)).trans <|
      (if_neg (not_or.2 ⟨h.nonempty, Nat.not_lt.2 h.threshold⟩)).trans <|
        (if_neg ((not_slotTooLong_iff s _).2 h.fits)).trans <|
          (if_neg (not_range_any_iff.2 h.payload)).trans <|
            (if_neg (not_not_intro h.distinct)).trans <|
              if_neg (not_range_any_iff.2 fun i hi => not_not_intro (h.sameLen i hi))
  rw [hchecks, recoverBytes_eq h.distinct]

/-- Settles O40: each clause leaves the checks before it behind. -/
theorem recoverFailsInOrder : Obligations.RecoverFailsInOrder := by
  intro T s
  simp only [exec, execRecover]
  refine ⟨fun hk => if_pos hk, fun hk hT => (if_neg (Nat.not_lt.2 hk)).trans (if_pos hT), fun hk h0 hT => ?_⟩
  rw [if_neg (Nat.not_lt.2 hk), if_neg (not_or.2 ⟨h0, Nat.not_lt.2 hT⟩)]
  refine ⟨fun hlong => if_pos ((slotTooLong_iff s _).2 hlong), fun hfits => ?_⟩
  rw [if_neg ((not_slotTooLong_iff s _).2 hfits)]
  refine ⟨fun hempty => if_pos (range_any_iff.2 hempty), fun hpayload => ?_⟩
  rw [if_neg (not_range_any_iff.2 hpayload)]
  refine ⟨fun hdup => if_pos ((not_slotIds_nodup_iff s _).2 hdup), fun hids hlens => ?_⟩
  rw [if_neg (not_not_intro ((slotIds_nodup_iff s _).2 hids))]
  exact if_pos (range_any_iff.2 hlens)

/-- A RECOVER passes its checks or fails with the code of one, which is none of OK and DIVISION_BY_ZERO. -/
theorem recoverOk_or_fails (T : Byte) (s : State) :
    s.RecoverOk T ∨ ∃ e, e ≠ .ok ∧ e ≠ .divisionByZero ∧ exec (.recover T) s = .next (finish e s) := by
  obtain ⟨hcount, hfew, hrest⟩ := recoverFailsInOrder T s
  by_cases hk : s.cfg.kmax < s.nshares.toNat
  · exact .inr ⟨_, by decide, by decide, hcount hk⟩
  rw [Nat.not_lt] at hk
  by_cases hT : s.nshares.toNat = 0 ∨ s.nshares.toNat < T.toNat
  · exact .inr ⟨_, by decide, by decide, hfew hk hT⟩
  obtain ⟨h0, hT⟩ := not_or.1 hT
  rw [Nat.not_lt] at hT
  obtain ⟨hlong, hrest⟩ := hrest hk h0 hT
  by_cases hfits : ∃ i, i < s.nshares.toNat ∧ s.cfg.nmax + 1 < (s.slenAt i).toNat
  · exact .inr ⟨_, by decide, by decide, hlong hfits⟩
  push Not at hfits
  obtain ⟨hempty, hrest⟩ := hrest hfits
  by_cases hpayload : ∃ i, i < s.nshares.toNat ∧ s.slenAt i = 0#16
  · exact .inr ⟨_, by decide, by decide, hempty hpayload⟩
  push Not at hpayload
  obtain ⟨hdup, hmis⟩ := hrest hpayload
  by_cases hids : (s.slotIds s.nshares.toNat).Nodup
  · by_cases hlens : ∃ i, i < s.nshares.toNat ∧ s.slenAt i ≠ s.slenAt 0
    · exact .inr ⟨_, by decide, by decide, hmis ((slotIds_nodup_iff s _).1 hids) hlens⟩
    · push Not at hlens
      exact .inl ⟨hk, h0, hT, hfits, hpayload, hids, hlens⟩
  · exact .inr ⟨_, by decide, by decide, hdup ((not_slotIds_nodup_iff s _).1 hids)⟩

/-- Settles O41: past the checks RECOVER completes with OK, and no check has that code. -/
theorem recoverNeverDividesByZero : Obligations.RecoverNeverDividesByZero := by
  intro T s t ht
  obtain h | ⟨e, -, hdiv, he⟩ := recoverOk_or_fails T s
  · cases h.exec_eq.symm.trans ht
    exact ErrCode.noConfusion
  · cases he.symm.trans ht
    exact hdiv

/-- A RECOVER that completes with OK has passed its checks. -/
theorem State.RecoverOk.of_exec {T : Byte} {s t : State} (h : exec (.recover T) s = .next t) (ht : t.err = .ok) :
    s.RecoverOk T := by
  refine (recoverOk_or_fails T s).resolve_right ?_
  rintro ⟨e, hok, -, he⟩
  cases he.symm.trans h
  exact hok ht

/-- What a successful RECOVER leaves. -/
theorem State.RecoverOk.effect {T : Byte} {s : State} (h : s.RecoverOk T) :
    ∃ t, exec (.recover T) s = .next t ∧
      t = { s with mem := t.mem, outLen := t.outLen, err := .ok, done := true, busy := false, held := [] } ∧
      t.outLen.toNat = (s.slenAt 0).toNat - 1 ∧
      (∀ p, p < (s.slenAt 0).toNat - 1 →
        t.byteAt (Buf.out p).offset = (s.interpolation s.nshares.toNat (p + 1)).getD 0 0x00#8) ∧
      (∀ off, (∀ b, b < (s.slenAt 0).toNat - 1 → off ≠ (Buf.out b).offset) → t.byteAt off = s.byteAt off) := by
  have hlen := constantTerms_length s s.nshares.toNat ((s.slenAt 0).toNat - 1)
  refine ⟨_, h.exec_eq, rfl, (outLen_complete_setOut s ?_).trans hlen, fun p hp => ?_, fun off hoff => ?_⟩
  · omega
  · rw [byteAt_out_complete_setOut s (hp.trans_eq hlen.symm), constantTerms_getD s _ hp]
  · exact byteAt_other_complete_setOut s fun b hb => hoff b (hb.trans_eq hlen)

/-- Settles O39: OUT holds the constant terms of the interpolations. -/
theorem recoverReturnsTheConstantTerms : Obligations.RecoverReturnsTheConstantTerms := by
  intro T s hk h0 hT hlens hfits hpayload hids
  have h : s.RecoverOk T := ⟨hk, h0, hT, fun i hi => (hlens i hi).symm ▸ hfits, fun i hi => (hlens i hi).symm ▸ hpayload,
    (slotIds_nodup_iff s _).2 hids, hlens⟩
  obtain ⟨t, hexec, hframe, hlen, hout, hother⟩ := h.effect
  refine ⟨t, hexec, hframe, hlen, fun p hp hpn => ?_, hother⟩
  have hr := interpolation_length h.distinct p
  refine ⟨s.interpolation s.nshares.toNat p, hr, fun i hi => powerSum_interpolation h.distinct hi p, ?_⟩
  rw [hout (p - 1) (by omega), Nat.sub_add_cancel hp, List.getD_eq_getElem _ _ (by omega)]
  exact List.getElem?_eq_getElem _

/-! ### The order of the slots -/

/-- The slots of s' hold the shares of s, permuted by σ (43_recoverer R189). -/
structure SlotsPermuted (s s' : State) (σ : Equiv.Perm (Fin s.nshares.toNat)) : Prop where
  nshares : s'.nshares = s.nshares
  cfg : s'.cfg = s.cfg
  slen : ∀ i : Fin s.nshares.toNat, s'.slenAt i = s.slenAt (σ i)
  byte : ∀ (i : Fin s.nshares.toNat) (b : Nat), b ≤ s.cfg.nmax → s'.shareByte i b = s.shareByte (σ i) b

namespace SlotsPermuted

variable {s s' : State} {σ : Equiv.Perm (Fin s.nshares.toNat)}

/-- What holds of all slot lengths does so in any order. -/
theorem forall_slen {P : Half → Prop} (hσ : SlotsPermuted s s' σ) (h : ∀ i, i < s.nshares.toNat → P (s.slenAt i))
    (i : Nat) (hi : i < s.nshares.toNat) : P (s'.slenAt i) :=
  (hσ.slen ⟨i, hi⟩).symm ▸ h _ (σ ⟨i, hi⟩).isLt

theorem points_perm (hσ : SlotsPermuted s s' σ) {p : Nat} (hp : 0 < s.nshares.toNat → p ≤ s.cfg.nmax) :
    (s'.points s.nshares.toNat p).Perm (s.points s.nshares.toNat p) := by
  have hpoint : ∀ i : Fin s.nshares.toNat,
      (s'.shareByte i 0, s'.shareByte i p) = (s.shareByte (σ i) 0, s.shareByte (σ i) p) := fun i =>
    Prod.ext (hσ.byte i 0 (Nat.zero_le _)) (hσ.byte i p (hp i.pos))
  rw [points_eq_ofFn, points_eq_ofFn, funext hpoint]
  exact Equiv.Perm.ofFn_comp_perm σ fun i => (s.shareByte i 0, s.shareByte i p)

theorem slotIds_nodup_iff (hσ : SlotsPermuted s s' σ) :
    (s'.slotIds s.nshares.toNat).Nodup ↔ (s.slotIds s.nshares.toNat).Nodup := by
  rw [← points_map_fst s' _ 0, ← points_map_fst s _ 0]
  exact ((hσ.points_perm fun _ => Nat.zero_le _).map _).nodup_iff

theorem interpolation_eq (hσ : SlotsPermuted s s' σ) {p : Nat} (hp : 0 < s.nshares.toNat → p ≤ s.cfg.nmax) :
    s'.interpolation s.nshares.toNat p = s.interpolation s.nshares.toNat p := by
  rw [State.interpolation, lagrange_perm (hσ.points_perm hp), State.interpolation]

theorem slenAt_zero (hσ : SlotsPermuted s s' σ) {T : Byte} (h : s.RecoverOk T) : s'.slenAt 0 = s.slenAt 0 :=
  hσ.forall_slen (P := (· = s.slenAt 0)) h.sameLen 0 (Nat.pos_of_ne_zero h.nonempty)

theorem recoverOk (hσ : SlotsPermuted s s' σ) {T : Byte} (h : s.RecoverOk T) : s'.RecoverOk T := by
  constructor <;> rw [hσ.nshares]
  case count => exact hσ.cfg ▸ h.count
  case nonempty => exact h.nonempty
  case threshold => exact h.threshold
  case fits => exact hσ.cfg ▸ hσ.forall_slen (P := fun n => n.toNat ≤ s.cfg.nmax + 1) h.fits
  case payload => exact hσ.forall_slen (P := (· ≠ 0#16)) h.payload
  case distinct => exact hσ.slotIds_nodup_iff.2 h.distinct
  case sameLen => exact hσ.slenAt_zero h ▸ hσ.forall_slen (P := (· = s.slenAt 0)) h.sameLen

theorem lagrangeOk (hσ : SlotsPermuted s s' σ) {p : Half} (h : s.LagrangeOk p) : s'.LagrangeOk p := by
  constructor <;> rw [hσ.nshares]
  case count => exact hσ.cfg ▸ h.count
  case fits => exact hσ.cfg ▸ hσ.forall_slen (P := fun n => n.toNat ≤ s.cfg.nmax + 1) h.fits
  case position => exact hσ.forall_slen (P := fun n => p.toNat < n.toNat) h.position
  case distinct => exact hσ.slotIds_nodup_iff.2 h.distinct

/-- RECOVER's half of R189: equal checks, equal constant terms. -/
theorem exec_recover (hσ : SlotsPermuted s s' σ) {T : Byte} {t : State} (hexec : exec (.recover T) s = .next t)
    (hok : t.err = .ok) :
    ∃ t', exec (.recover T) s' = .next t' ∧ t'.err = .ok ∧ t'.outLen = t.outLen ∧
      ∀ b, b < t.outLen.toNat → t'.byteAt (Buf.out b).offset = t.byteAt (Buf.out b).offset := by
  have h := State.RecoverOk.of_exec hexec hok
  obtain ⟨u, hu, -, hlen, hout, -⟩ := h.effect
  cases hu.symm.trans hexec
  obtain ⟨t', ht', hframe', hlen', hout', -⟩ := (hσ.recoverOk h).effect
  rw [hσ.slenAt_zero h] at hlen' hout'
  refine ⟨t', ht', congrArg State.err hframe', BitVec.eq_of_toNat_eq (hlen'.trans hlen.symm), fun b hb => ?_⟩
  rw [hlen] at hb
  have hfits := h.fits 0 (Nat.pos_of_ne_zero h.nonempty)
  rw [hout b hb, hout' b hb, hσ.nshares, hσ.interpolation_eq fun _ => by omega]

/-- LAGRANGE's half of R189: equal checks, equal interpolations. -/
theorem exec_lagrange (hσ : SlotsPermuted s s' σ) {p : Half} {t : State} (hexec : exec (.lagrange p) s = .next t)
    (hok : t.err = .ok) :
    ∃ t', exec (.lagrange p) s' = .next t' ∧ t'.err = .ok ∧ t'.result = t.result ∧ t'.prLen = t.prLen ∧
      ∀ m, m < t.prLen.toNat → t'.byteAt (Buf.pr m).offset = t.byteAt (Buf.pr m).offset := by
  have h := State.LagrangeOk.of_exec hexec hok
  have hp : 0 < s.nshares.toNat → p.toNat ≤ s.cfg.nmax := fun h0 =>
    Nat.le_of_lt_succ ((h.position 0 h0).trans_le (h.fits 0 h0))
  obtain ⟨u, hu, hframe, hpr, -⟩ := h.effect
  cases hu.symm.trans hexec
  obtain ⟨t', ht', hframe', hpr', -⟩ := (hσ.lagrangeOk h).effect
  rw [hσ.nshares, hσ.interpolation_eq hp] at hframe' hpr'
  have hprLen : t.prLen = s.nshares := congrArg State.prLen hframe
  refine ⟨t', ht', congrArg State.err hframe',
    (congrArg State.result hframe').trans (congrArg State.result hframe).symm,
    (congrArg State.prLen hframe').trans hprLen.symm, fun m hm => ?_⟩
  rw [hprLen] at hm
  rw [hpr' m hm, hpr m hm]

end SlotsPermuted

/-- Settles O43: the checks do not look at the order of the slots, and neither does the interpolation. -/
theorem interpolationIgnoresSlotOrder : Obligations.InterpolationIgnoresSlotOrder := by
  rintro s s' _ σ rfl hnshares hcfg hslen hbyte
  have hσ : SlotsPermuted s s' σ := ⟨hnshares, hcfg, hslen, hbyte⟩
  exact ⟨fun _ _ => hσ.exec_recover, fun _ _ => hσ.exec_lagrange⟩

/-! ### The round trip -/

/-- Points on a polynomial of at most so many coefficients give its constant term back (43_recoverer R188). -/
theorem interpolation_getD_zero {s : State} {k p : Nat} {c : List Byte} (hids : (s.slotIds k).Nodup) (hlen : c.length ≤ k)
    (h : ∀ i, i < k → s.shareByte i p = powerSum c (s.shareByte i 0)) :
    (s.interpolation k p).getD 0 0x00#8 = c.getD 0 0x00#8 := by
  have hpad : lagrange (s.points k p) = some (c ++ List.replicate (k - c.length) 0#8) := by
    refine lagrange_eq_some (points_map_fst s k p ▸ hids) (by simp; omega) fun q hq => ?_
    obtain ⟨i, hi, rfl⟩ := List.mem_map.1 hq
    rw [peval_append_replicate_zero, peval_eq_powerSum]
    exact (h i (List.mem_range.1 hi)).symm
  rw [State.interpolation, hpad, Option.getD_some]
  cases c with
  | nil => cases k <;> rfl
  | cons c cs => rfl

/-- A share loaded into a slot: its id, and at each payload position the value of the material's polynomial there. -/
theorem shareByte_of_getShare {s s1 u : State} {id : Byte} {i : Nat} (hid : id ≠ 0#8) (hm : s1.matValid = true)
    (hN : s1.matN.toNat < 65535) (hu : exec (.getShare id) s1 = .next u)
    (hload : ∀ b, b ≤ s1.matN.toNat → s.byteAt (Buf.share i b).offset = u.byteAt (Buf.out b).offset) :
    s.shareByte i 0 = id ∧ ∀ p, p < s1.matN.toNat → s.shareByte i (p + 1) = powerSum (s1.materialPoly p) id := by
  obtain ⟨hshare, -⟩ := getShareWritesTheShare id s1
  obtain ⟨t, ht, -, -, hout0, hout, -⟩ := hshare hid hm hN
  cases ht.symm.trans hu
  exact ⟨(hload 0 (Nat.zero_le _)).trans hout0, fun p hp => (hload (p + 1) hp).trans (hout p hp)⟩

/-- Settles O42: the shares' points of a payload position lie on the material's polynomial, whose constant term is the secret
byte. -/
theorem recoverReturnsTheSplitSecret : Obligations.RecoverReturnsTheSplitSecret := by
  intro T ids s0 s1 s2 hc hT hn henough hsplit hnodup hzero hTk hk hcfg hcount hslots
  obtain ⟨⟨-, hnmax⟩, -⟩ := hc
  obtain ⟨t, hsplit', ht, hsecret, -⟩ := splitBuildsTheMaterial T s0 hT hn henough
  cases hsplit'.symm.trans hsplit
  have hvalid : s1.matValid = true := congrArg State.matValid ht
  have hmatN : s1.matN = s0.secretLen := congrArg State.matN ht
  have hmatT : s1.matT = T := congrArg State.matT ht
  have hTpos : 0 < T.toNat := BitVec.toNat_pos_of_ne_zero hT
  have hlen : ∀ i, i < ids.length → (s2.slenAt i).toNat = s0.secretLen.toNat + 1 :=
    fun i hi => (hslots i _ (List.getElem?_eq_getElem hi)).1
  have hshare : ∀ i (hi : i < ids.length), s2.shareByte i 0 = ids[i] ∧
      ∀ p, p < s0.secretLen.toNat → s2.shareByte i (p + 1) = powerSum (s1.materialPoly p) ids[i] := by
    intro i hi
    obtain ⟨-, u, hu, hload⟩ := hslots i _ (List.getElem?_eq_getElem hi)
    have hid : ids[i] ≠ 0#8 := fun h0 => hzero (h0 ▸ List.getElem_mem hi)
    rw [← hmatN] at hload ⊢
    exact shareByte_of_getShare hid hvalid (by rw [hmatN]; omega) hu hload
  have hids : s2.slotIds ids.length = ids :=
    List.ext_getElem (by simp [State.slotIds]) fun i _ hi => by simp [State.slotIds, hshare i hi]
  have h : s2.RecoverOk T := by
    constructor <;> rw [hcount]
    · exact hcfg ▸ hk
    · omega
    · exact hTk
    · exact fun i hi => by rw [hlen i hi, hcfg]; omega
    · exact fun i hi h0 => by have := hlen i hi; rw [h0] at this; cases this
    · exact hids.symm ▸ hnodup
    · exact fun i hi => BitVec.eq_of_toNat_eq ((hlen i hi).trans (hlen 0 (by omega)).symm)
  obtain ⟨u, hu, hframe, houtLen, hout, -⟩ := h.effect
  rw [hlen 0 (by omega), Nat.add_sub_cancel] at houtLen hout
  refine ⟨u, hu, congrArg State.err hframe, BitVec.eq_of_toNat_eq houtLen, fun p hp => ?_⟩
  have hconst : (s2.interpolation ids.length (p + 1)).getD 0 0x00#8 = (s1.materialPoly p).getD 0 0x00#8 := by
    refine interpolation_getD_zero (hids.symm ▸ hnodup) (by rw [materialPoly_length, hmatT]; exact hTk) fun i hi => ?_
    obtain ⟨hid, hbyte⟩ := hshare i hi
    rw [hbyte p hp, hid]
  rw [hout p hp, hcount, hconst, ← hsecret p hp, State.materialPoly, hmatT]
  simp [hTpos]

end Sys2Proof.Machine

/-! # Proofs: command control (44_control)

Acceptance by CMD's place in the window map, the core's turn as the decoded command, the completion of a command in flight,
and the frame of an outside event while one is in flight. -/

namespace Sys2Proof.Machine

/-! ### Acceptance -/

/-- Settles O8: CMD by its place in the register map, whose writes are dropped while BUSY = 1. -/
theorem acceptanceLatchesTheWord : Obligations.AcceptanceLatchesTheWord := fun s w =>
  ⟨fun hb => memWrite_reg (n := 5) w rfl (.inl hb),
    fun hb => memWrite_dropped (by decide) (locate_reg (n := 5) rfl s.cfg) hb rfl⟩

/-! ### The core's turn -/

theorem coreTurn_of_instr {s : State} {i : Instr} (hb : s.busy = true) (hd : decode s.cmd = .instr i) :
    coreTurn s = exec i s := by
  rw [coreTurn, if_pos hb, completeInFlight, hd]

/-- A whole command word placed by withFetchWord is accepted as it is (log 2). -/
theorem withFetchWord_eq (s : State) (w : Word) :
    s.withFetchWord 32 w.toNat = { accept w s with held := [], agenda := .core :: s.agenda } := by
  rw [State.withFetchWord, Nat.mod_eq_of_lt w.isLt, BitVec.ofNat_toNat, BitVec.setWidth_eq]

/-- Settles O7: the step is the core's turn, and BUSY and the decoder say what that does. -/
theorem coreTurnRunsTheDecodedCommand : Obligations.CoreTurnRunsTheDecodedCommand := by
  refine ⟨fun s i hb hd => ⟨fun ha => ?_, fun rest ha => ?_⟩, fun s why hb hd ha => ?_, fun s w i hd => ?_⟩
  · exact (step_nil ha).trans (coreTurn_of_instr hb hd)
  · exact (step_core ha).trans (coreTurn_of_instr (s := { s with agenda := rest }) hb hd)
  · exact (step_nil ha).trans (coreTurn_of_illegal hb hd)
  · rw [withFetchWord_eq]
    exact (step_core (rest := s.agenda) rfl).trans (coreTurn_of_instr (s := { accept w s with held := [] }) rfl hd)

/-! ### NOP -/

theorem operandBits_toNat (w : Word) : (operandBits w).toNat = w.toNat % 2 ^ 24 := by
  rw [operandBits, BitVec.extractLsb'_toNat, Nat.shiftRight_zero]

/-- Of the words with opcode 0x00 only the word 0 is a command (44_control R200). -/
theorem decode_of_opc_zero {w : Word} (ho : w.toNat / 2 ^ 24 = 0) (hl : w.toNat % 2 ^ 24 ≠ 0) :
    decode w = .illegal .reservedBits := by
  have hnop : opcOf w = Mnemonic.nop.opc := BitVec.eq_of_toNat_eq ((opcOf_toNat w).trans ho)
  have hbits : operandBits w ≠ 0 := fun h0 => hl (by rw [← operandBits_toNat, h0]; rfl)
  exact (decode_of_opc hnop).trans (if_neg fun hz => hbits ((and_reserved_n_iff _).1 hz))

/-- STATUS after a command that completed with OK, no material valid and no write dropped (10_state R26). -/
theorem statusWord_finish_ok {s : State} (hm : s.matValid = false) (ho : s.ovr = false) :
    (finish .ok s).statusWord = 0x00000002 := by
  apply BitVec.eq_of_toNat_eq
  rw [statusWord_toNat, finish_err, finish_matValid, finish_ovr, finish_done, finish_busy, hm, ho]
  rfl

/-- Settles O20: NOP is a completion with OK by definition; the decoder by opcode and operand bits. -/
theorem nopOnlyCompletes : Obligations.NopOnlyCompletes := by
  refine ⟨fun _ => rfl, decode_encode .nop, fun _ => decode_of_opc_zero, fun s t hm ho ht => ?_⟩
  cases ht
  exact statusWord_finish_ok hm ho

/-! ### Completion -/

/-- The command in flight is complete: not busy, done, and nothing held (44_control R202). -/
def State.Completed (t : State) : Prop := t.busy = false ∧ t.done = true ∧ t.held = []

theorem completed_finish (e : ErrCode) (s : State) : (finish e s).Completed := ⟨rfl, rfl, rfl⟩

/-- A command completes, but for a SPLIT that passes its checks and finds too few random bytes. -/
theorem Effect.completed_or_waits {i : Instr} {s t : State} (he : Effect i s t) :
    t.Completed ∨
    ∃ T, i = .split T ∧ T ≠ 0#8 ∧ s.secretLen.toNat ≤ s.cfg.nmax ∧ s.held.length + s.offers.length < s.splitNeed T := by
  cases he with
  | wait T hi hT hn hw => exact .inr ⟨T, hi, hT, hn, hw⟩
  | failed | plain | result | pr | prResult | share | secret | material => exact .inl (completed_finish _ _)

/-- Settles O15: an ILLEGAL word completes by raising, and the bytes that are there rule out SPLIT's wait. -/
theorem commandInFlightCompletes : Obligations.CommandInFlightCompletes := by
  intro s hb ha henough
  rw [step_nil ha]
  cases hd : decode s.cmd with
  | illegal why => exact ⟨_, coreTurn_of_illegal hb hd, completed_finish _ s⟩
  | instr i =>
    obtain ⟨t, ht, he⟩ := exec_effect i s
    refine ⟨t, (coreTurn_of_instr hb hd).trans ht, he.completed_or_waits.resolve_right ?_⟩
    rintro ⟨T, rfl, hT, hn, hw⟩
    exact absurd (henough T hd hT hn) (Nat.not_le.2 hw)

/-! ### Operands while a command is in flight -/

/-- All that a command in flight can read is as in another state: only IE, DONE, OVR and fields outside the core may differ
(70_reset R247). -/
def SameOperands (t s : State) : Prop :=
  t = { s with
        ie := t.ie, done := t.done, ovr := t.ovr
        offers := t.offers, agenda := t.agenda, answers := t.answers, busyReads := t.busyReads }

theorem SameOperands.refl (s : State) : SameOperands s s := rfl

theorem SameOperands.answer {t s : State} (h : SameOperands t s) (a : Answer) : SameOperands (t.answer a) s :=
  congrArg (fun u : State => u.answer a) h

/-- A write that takes effect while BUSY = 1 is to CTRL or STATUS, and drops BUSY only by SRST (70_reset R244, R247). -/
theorem writeLoc_sameOperands {s : State} {l : Loc} {v : Word} (hl : l.writableBusy = true)
    (ht : (s.writeLoc l v).busy = true) : SameOperands (s.writeLoc l v) s := by
  cases l with
  | slen | buf => cases hl
  | reg r =>
    cases r with
    | ctrl =>
      rw [State.writeLoc, State.writeReg, State.writeCtrl] at ht ⊢
      split_ifs at ht ⊢
      · cases ht
      · rfl
    | status => rfl
    | id | param0 | param1 | cmd | result | secretLen | nshares | paLen | pbLen | prLen | outLen | matInfo => cases hl

theorem memWrite_sameOperands {off w : Nat} {v : Word} {s : State} (hb : s.busy = true)
    (ht : (memWrite off w v s).2.busy = true) : SameOperands (memWrite off w v s).2 s := by
  rcases memWrite_cases (Prod.mk.eta (p := memWrite off w v s)).symm with
    ⟨-, hs, -⟩ | ⟨l, -, -, -, -, ⟨-, -, hs⟩ | ⟨hl, hs⟩⟩
  · rw [hs]; exact .refl s
  · rw [hs]; rfl
  · rw [hs] at ht ⊢
    exact writeLoc_sameOperands (hl.resolve_left (by simp [hb])) ht

theorem hostWrite_sameOperands {addr w : Nat} {v : Word} {s : State} (hb : s.busy = true)
    (ht : (hostWrite addr w v s).busy = true) : SameOperands (hostWrite addr w v s) s := by
  rw [hostWrite] at ht ⊢
  split at ht
  · exact (SameOperands.refl s).answer _
  · exact (memWrite_sameOperands hb ht).answer _

/-- Settles O55: reads and polls leave the core, a write keeps the operands or resets, and a reset drops BUSY. -/
theorem operandsAreStableWhileBusy : Obligations.OperandsAreStableWhileBusy := by
  rintro e s _ hb rfl ht
  cases e with
  | read addr w =>
    obtain ⟨l, n, hr⟩ := hostRead_changes addr w s
    rw [external, hr]
  | write addr w v => exact hostWrite_sameOperands hb ht
  | poll =>
    obtain ⟨g, l, n, hp⟩ := hostPoll_changes s
    rw [external, hp]
  | offer b => rfl
  | rst => cases ht
  | core => rfl

end Sys2Proof.Machine

/-! # Proofs: exceptions (60_exceptions)

No step stops the core, what a failed command leaves unchanged, the completion codes each command can end with, and the
interrupt output. -/

namespace Sys2Proof.Machine

/-! ### No step stops -/

theorem coreTurn_of_idle {s : State} (hb : s.busy = false) : coreTurn s = .next s := by
  rw [coreTurn, if_neg (by simp [hb])]

/-- Settles O9: the step is the turn of an idle core. -/
theorem idleCoreChangesNothing : Obligations.IdleCoreChangesNothing := fun s hb =>
  ⟨fun ha => (step_nil ha).trans (coreTurn_of_idle hb),
    fun rest ha => (step_core ha).trans (coreTurn_of_idle (s := { s with agenda := rest }) hb)⟩

/-- The core's turn always has a next state: idle, an ILLEGAL word and a command each give one (60_exceptions R210). -/
theorem exists_coreTurn (s : State) : ∃ t, coreTurn s = .next t := by
  cases hb : s.busy with
  | false => exact ⟨s, coreTurn_of_idle hb⟩
  | true =>
    cases hd : decode s.cmd with
    | illegal why => exact ⟨_, coreTurn_of_illegal hb hd⟩
    | instr i =>
      obtain ⟨t, ht, -⟩ := exec_effect i s
      exact ⟨t, (coreTurn_of_instr hb hd).trans ht⟩

/-- Settles O11: a step is the core's turn or an outside event. -/
theorem noStepStops : Obligations.NoStepStops := by
  intro s
  cases ha : s.agenda with
  | nil => rw [step_nil ha]; exact exists_coreTurn s
  | cons e rest =>
    by_cases he : e = .core
    · rw [step_core (he ▸ ha)]; exact exists_coreTurn _
    · exact ⟨_, step_external he ha⟩

/-! ### How a command in flight ends -/

/-- A command that drops BUSY ends by completing some state, which for an error is the state before (60_exceptions R212). -/
theorem Effect.eq_finish {i : Instr} {s t : State} (he : Effect i s t) (hb : s.busy = true) (ht : t.busy = false) :
    ∃ e u, t = finish e u ∧ (e ≠ .ok → u = s) := by
  cases he with
  | failed e => exact ⟨e, s, rfl, fun _ => rfl⟩
  | wait => cases hb.symm.trans ht
  | plain | result | pr | prResult | share | secret | material => exact ⟨.ok, _, rfl, (absurd rfl ·)⟩

/-- Settles O12: with an error, the state completed is the state before. -/
theorem failedCommandChangesOnlyStatus : Obligations.FailedCommandChangesOnlyStatus := by
  intro i s t hb hexec ht herr
  obtain ⟨e, u, rfl, hu⟩ := (effect_of_exec hexec).eq_finish hb ht
  rw [hu herr]
  rfl

/-- Settles O19: DONE excludes BUSY by the invariant; a completion sets DONE, and no command writes IE. -/
theorem interruptMeansCompletion : Obligations.InterruptMeansCompletion := by
  refine ⟨fun s hs hirq => ?_, fun i s t hb hexec ht => ?_⟩
  · obtain ⟨hdone, hie⟩ := Bool.and_eq_true_iff.1 hirq
    exact ⟨hs.doneMeansIdle hdone, hdone, hie⟩
  · have he := effect_of_exec hexec
    obtain ⟨hie, -⟩ := he.host_registers
    obtain ⟨e, u, rfl, -⟩ := he.eq_finish hb ht
    exact hie

/-! ### The completion codes -/

/-- An outcome that drops BUSY has OK or a code of the list (60_exceptions R211). -/
def EndsWithin (codes : List ErrCode) (o : Out) : Prop :=
  ∀ t, o = .next t → t.busy = false → t.err = .ok ∨ t.err ∈ codes

namespace EndsWithin

variable {codes : List ErrCode}

theorem completed (s : State) : EndsWithin codes (.next (complete s)) := by
  rintro _ ⟨⟩ -
  exact .inl rfl

theorem raised {e : ErrCode} (he : e ∈ codes) (s : State) : EndsWithin codes (.next (raise e s)) := by
  rintro _ ⟨⟩ -
  exact .inr he

theorem waiting {s : State} (hb : s.busy = true) : EndsWithin codes (.next s) := by
  rintro _ ⟨⟩ ht
  cases hb.symm.trans ht

/-- A check of a command: both ways on. -/
theorem check {c : Prop} [Decidable c] {o o' : Out} (h : EndsWithin codes o) (h' : EndsWithin codes o') :
    EndsWithin codes (if c then o else o') := by
  split
  · exact h
  · exact h'

end EndsWithin

open EndsWithin

theorem execGfDiv_endsWithin (a b : Byte) (s : State) : EndsWithin [.divisionByZero] (execGfDiv a b s) := by
  rw [execGfDiv]
  cases gfDiv a b with
  | none => exact raised (by decide) s
  | some q => exact completed _

theorem execPolyAdd_endsWithin (s : State) : EndsWithin [.operandRange] (execPolyAdd s) :=
  check (raised (by decide) s) (completed _)

theorem execPolyMul_endsWithin (s : State) : EndsWithin [.operandRange] (execPolyMul s) :=
  check (raised (by decide) s) <| check (raised (by decide) s) (completed _)

theorem execPolyEval_endsWithin (x : Byte) (s : State) : EndsWithin [.operandRange] (execPolyEval x s) :=
  check (raised (by decide) s) (completed _)

theorem execSplit_endsWithin (T : Byte) {s : State} (hb : s.busy = true) :
    EndsWithin [.invalidThreshold, .operandRange] (execSplit T s) :=
  check (raised (by decide) s) <| check (raised (by decide) s) <| check (waiting hb) (completed _)

theorem execGetShare_endsWithin (id : Byte) (s : State) :
    EndsWithin [.invalidShareId, .noMaterial] (execGetShare id s) :=
  check (raised (by decide) s) <| check (raised (by decide) s) (completed _)

theorem execIsValid_endsWithin (slot : Byte) (s : State) :
    EndsWithin [.operandRange, .noMaterial] (execIsValid slot s) :=
  check (raised (by decide) s) <| check (raised (by decide) s) <| check (raised (by decide) s) (completed _)

theorem execLagrange_endsWithin (p : Half) (s : State) :
    EndsWithin [.operandRange, .divisionByZero] (execLagrange p s) := by
  refine check (raised (by decide) s) <| check (raised (by decide) s) <| check (raised (by decide) s) ?_
  cases lagrange (s.points s.nshares.toNat p.toNat) with
  | none => exact raised (by decide) s
  | some r => exact completed _

/-- RECOVER's own codes and DIVISION_BY_ZERO, which its last step could raise by its form alone (43_recoverer R185). -/
theorem execRecover_endsWithin (T : Byte) (s : State) :
    EndsWithin [.divisionByZero, .operandRange, .insufficientShares, .emptyShare, .duplicateShareId,
      .mismatchedShareLength] (execRecover T s) := by
  refine check (raised (by decide) s) <| check (raised (by decide) s) <| check (raised (by decide) s) <|
    check (raised (by decide) s) <| check (raised (by decide) s) <| check (raised (by decide) s) ?_
  cases s.recoverBytes s.nshares.toNat ((s.slenAt 0).toNat - 1) with
  | none => exact raised (by decide) s
  | some sec => exact completed _

theorem ErrCode.code_le_ten (e : ErrCode) : e.code.toNat ≤ 10 := by cases e <;> decide

/-- Settles O16: the codes by definition, and each command's by its checks; RECOVER never divides by zero. -/
theorem completionCodesAreTheTable : Obligations.CompletionCodesAreTheTable := by
  refine ⟨by decide, ErrCode.code_le_ten, fun i s t hb hexec ht => ?_,
    fun s why hb hd => ⟨_, coreTurn_of_illegal hb hd, rfl⟩⟩
  cases i with
  | nop | gfAdd | gfSub | gfMul => exact completed _ t hexec ht
  | gfDiv a b => exact execGfDiv_endsWithin a b s t hexec ht
  | polyAdd => exact execPolyAdd_endsWithin s t hexec ht
  | polyMul => exact execPolyMul_endsWithin s t hexec ht
  | polyEval x => exact execPolyEval_endsWithin x s t hexec ht
  | split T => exact execSplit_endsWithin T hb t hexec ht
  | getShare id => exact execGetShare_endsWithin id s t hexec ht
  | isValid slot => exact execIsValid_endsWithin slot s t hexec ht
  | lagrange p => exact execLagrange_endsWithin p s t hexec ht
  | recover T =>
    have hdiv : t.err ≠ .divisionByZero := recoverNeverDividesByZero T s t hexec
    exact (execRecover_endsWithin T s t hexec ht).imp_right fun h => (List.mem_cons.1 h).resolve_left hdiv

end Sys2Proof.Machine

/-! # Proofs: reset and hazards (70_reset_and_hazards)

Writes while a command is in flight, the soft reset, and the words that the reset state shows. -/

namespace Sys2Proof.Machine

/-! ### Writes while a command is in flight -/

/-- Only words 3 and 4 of the window, CTRL and STATUS, take writes while BUSY = 1 (20_memory R61, 70_reset R247). -/
theorem not_writableBusy_of_locate {c : Config} {off : Nat} {l : Loc} (h4 : off % 4 = 0) (hl : locate c off = some l)
    (hctrl : off ≠ 0x00000C) (hstatus : off ≠ 0x000010) : l.writableBusy = false := by
  rcases locate_cases hl with ⟨r, rfl, hm, -⟩ | ⟨i, rfl, -⟩ | ⟨b, rfl, -⟩
  · have hplace : ∀ n < regMap.length, n ≠ 3 → n ≠ 4 → ∀ r ∈ regMap[n]?, (Loc.reg r).writableBusy = false := by decide
    obtain ⟨hlt, -⟩ := List.getElem?_eq_some_iff.1 hm
    exact hplace (off / 4) hlt (by omega) (by omega) r hm
  · rfl
  · rfl

theorem memWrite_ctrl (v : Word) (s : State) : memWrite 0x00000C 4 v s = (.writeOk, s.writeCtrl v) :=
  memWrite_reg (n := 3) v rfl (.inr rfl)

theorem writeCtrl_of_srst_set (s : State) {v : Word} (hv : v.getLsbD 1 = true) : s.writeCtrl v = s.afterReset := by
  rw [State.writeCtrl, if_pos hv]

/-- Settles O51: a mapped word other than CTRL and STATUS drops the write, those two take it, and the rest are bus errors. -/
theorem busyWritesAreDropped : Obligations.BusyWritesAreDropped := by
  intro off w v s hb
  refine ⟨?_, ?_, ?_, ?_, memWrite_busError v⟩
  · rintro rfl h4 hmap hctrl hstatus
    obtain ⟨l, hl⟩ := Option.ne_none_iff_exists'.1 hmap
    exact memWrite_dropped h4 hl hb (not_writableBusy_of_locate h4 hl hctrl hstatus)
  · rintro rfl rfl hv
    rw [memWrite_ctrl, writeCtrl_of_srst_clear s hv]
  · rintro rfl rfl hv
    rw [memWrite_ctrl, writeCtrl_of_srst_set s hv]
  · rintro rfl rfl
    exact memWrite_status v s

/-! ### The soft reset -/

/-- Settles O53: CTRL takes the write whatever BUSY is, and SRST leaves what a reset leaves. -/
theorem softResetGivesTheResetState : Obligations.SoftResetGivesTheResetState := by
  intro v s hv
  have hwrite : memWrite 0x00000C 4 v s = (.writeOk, s.afterReset) := by
    rw [memWrite_ctrl, writeCtrl_of_srst_set s hv]
  exact ⟨s.afterReset, hwrite, hasResetValues_afterReset s, rfl, rfl, rfl, rfl⟩

/-! ### The words of the reset state -/

/-- Every register after ID, PARAM0 and PARAM1 reads 0 at reset (70_reset R240). -/
theorem regValue_reset_eq_zero : ∀ r ∈ regMap.drop 3, State.reset.regValue r = 0 := by decide

theorem memRead_reset_eq_zero {n : Nat} (hlo : 3 ≤ n) (hhi : n < 14) :
    memRead (4 * n) 4 State.reset = (.readOk 0, State.reset) := by
  obtain ⟨k, rfl⟩ := Nat.exists_eq_add_of_le hlo
  have hm : regMap[3 + k]? = some regMap[3 + k] := List.getElem?_eq_getElem hhi
  have hzero : State.reset.regValue regMap[3 + k] = 0 :=
    regValue_reset_eq_zero _ (List.mem_of_getElem? (List.getElem?_drop.trans hm))
  rw [memRead_reg hm (.inl rfl), hzero]

/-- Settles O54: the three words of the configuration by their place in the map, the others by the zeros of the reset state. -/
theorem resetStateReadsAsTheTable : Obligations.ResetStateReadsAsTheTable := by
  refine ⟨memRead_reg (n := 0) rfl (.inl rfl), memRead_reg (n := 1) rfl (.inl rfl), memRead_reg (n := 2) rfl (.inl rfl),
    fun off hoff => ?_, fun _ => rfl, rfl, rfl, rfl⟩
  have hword : ∀ off ∈ [0x0C, 0x10, 0x14, 0x18, 0x1C, 0x20, 0x24, 0x28, 0x2C, 0x30, 0x34],
      3 ≤ off / 4 ∧ off / 4 < 14 ∧ 4 * (off / 4) = off := by decide
  obtain ⟨hlo, hhi, heq⟩ := hword off hoff
  rw [← heq]
  exact memRead_reset_eq_zero hlo hhi

end Sys2Proof.Machine
